-- ==== Sys2Proof/Word.lean ====
section
/-! DEFINITION. The word types of the engine (spec 00_scope.md R13): bytes and 32-bit values. -/

namespace Sys2Proof

/-- A byte: 8 bits, unsigned (R13). -/
abbrev Byte := BitVec 8

/-- A 32-bit value: `ARG`, `CI` and each binary32 pattern of `F` (10_state.md R20). -/
abbrev Word := BitVec 32

/-- A byte sequence `[b0, b1, ...]` (R13). -/
abbrev Bytes := List Byte

end Sys2Proof
end

