-- ==== Sys2Proof/Syntax.lean ====
section
/-! DEFINITION. The operations, the selectors and the one instruction type: one constructor for each row of
spec/opcode_table.json, its eight request (MOSI) rows and its eight response (MISO) rows (30_encoding.md R94). -/

namespace Sys2Proof

/-- The eight operations `OP` can hold, in the order of 10_state.md R22. -/
inductive Op where
  | startMeasurement
  | stopMeasurement
  | readMeasurement
  | readCleaningInterval
  | writeCleaningInterval
  | startFanCleaning
  | deviceInfo
  | reset
  deriving DecidableEq, Repr, Inhabited

/-- The three selectors `SEL` can hold; no other value can be written (10_state.md R22, D24). -/
inductive Selector where
  | productName
  | articleCode
  | serialNumber
  deriving DecidableEq, Repr, Inhabited

/-- One constructor per row of the opcode table.

A request row is an operation with its operands (45_operations.md R181 to R188). A response row is a payload
whose first four bytes match that row's `match` under its `mask`: the fields the row leaves free are its
operands, the `address` byte (not examined, D14), the data (whose count is the `data-length` byte), and the
trailing checksum byte as received (`P_CHECK` decides whether it is right, 42_frame_reader.md R139). -/
inductive Instr where
  | startMeasurement
  | stopMeasurement
  | readMeasurement
  | readCleaningInterval
  | writeCleaningInterval (arg : Word)
  | startFanCleaning
  | deviceInfo (sel : Selector)
  | reset
  | startMeasurementRsp (address : Byte) (data : Bytes) (cc : Byte)
  | stopMeasurementRsp (address : Byte) (data : Bytes) (cc : Byte)
  | readMeasurementRsp (address : Byte) (values : List Word) (cc : Byte)
  | readCleaningIntervalRsp (address : Byte) (value : Word) (cc : Byte)
  | writeCleaningIntervalRsp (address : Byte) (cc : Byte)
  | startFanCleaningRsp (address : Byte) (data : Bytes) (cc : Byte)
  | deviceInfoRsp (address : Byte) (data : Bytes) (cc : Byte)
  | resetRsp (address : Byte) (data : Bytes) (cc : Byte)
  deriving DecidableEq, Repr

/-- The operation whose row of the table the instruction is. -/
def Instr.opOf : Instr → Op
  | .startMeasurement => .startMeasurement
  | .stopMeasurement => .stopMeasurement
  | .readMeasurement => .readMeasurement
  | .readCleaningInterval => .readCleaningInterval
  | .writeCleaningInterval _ => .writeCleaningInterval
  | .startFanCleaning => .startFanCleaning
  | .deviceInfo _ => .deviceInfo
  | .reset => .reset
  | .startMeasurementRsp _ _ _ => .startMeasurement
  | .stopMeasurementRsp _ _ _ => .stopMeasurement
  | .readMeasurementRsp _ _ _ => .readMeasurement
  | .readCleaningIntervalRsp _ _ _ => .readCleaningInterval
  | .writeCleaningIntervalRsp _ _ => .writeCleaningInterval
  | .startFanCleaningRsp _ _ _ => .startFanCleaning
  | .deviceInfoRsp _ _ _ => .deviceInfo
  | .resetRsp _ _ _ => .reset

/-- The instruction is a request row (an operation), not a response row. -/
def Instr.isRequest : Instr → Bool
  | .startMeasurement | .stopMeasurement | .readMeasurement | .readCleaningInterval
  | .writeCleaningInterval _ | .startFanCleaning | .deviceInfo _ | .reset => true
  | .startMeasurementRsp _ _ _ | .stopMeasurementRsp _ _ _ | .readMeasurementRsp _ _ _
  | .readCleaningIntervalRsp _ _ _ | .writeCleaningIntervalRsp _ _ | .startFanCleaningRsp _ _ _
  | .deviceInfoRsp _ _ _ | .resetRsp _ _ _ => false

end Sys2Proof
end

