-- ==== Sys2Proof/Config.lean ====
section
/-! DEFINITION. What is fixed for one engine: the constants of 00_scope.md R9, the parameters of R10,
the choice of frame codec (R11), and the free values: the collaborators' functions and the answers of the
two transport ports (20_memory.md R56, R57; 92_eei_decisions.md D5, D28), and what an operand register that was
never written holds (70_reset_and_hazards.md R230). -/

namespace Sys2Proof

/-- Which frame codec is attached (R11). `external` is the collaborator the spec leaves uninterpreted and is
what a machine has after reset. `reference` is the codec of 93_implementation_defined.md G5, general
knowledge of the sensor family. `table` is any codec known by finitely many of its values and failing on every
other argument. The last two serve tests and witnesses; claims are about all three (log entry 3). -/
inductive Codec where
  | external
  | reference
  | table (encodes decodes : List (Bytes × Bytes))
  deriving DecidableEq, Repr

/-- The named parameters of R10 and the attached codec. They are configuration: no step changes them (R29).
A machine carries them in its state so that every claim about all states is a claim about all parameter
values (log entry 2). -/
structure Params where
  codeStop : Byte
  codeRead : Byte
  codeCi : Byte
  codeFan : Byte
  codeInfo : Byte
  codeReset : Byte
  selProductName : Byte
  selArticleCode : Byte
  selSerialNumber : Byte
  ciPrefix : Bytes
  codec : Codec
  deriving DecidableEq, Repr

/-- The answer of `TX.write_all(s)` (20_memory.md R56). `fail sent`: the write failed after `sent` bytes, so
that any prefix of the stream, the empty one and all of it included, may have gone out (D3). -/
inductive TxAnswer where
  | ok
  | fail (sent : Nat)
  deriving DecidableEq, Repr, Inhabited

/-- The answer of `RX.poll()` (20_memory.md R57). -/
inductive RxAnswer where
  | byte (b : Byte)
  | wouldBlock
  | fail
  deriving DecidableEq, Repr, Inhabited

/-! The constants of R9. -/

/-- `DELIM`, the delimiter byte the frame reader counts. -/
def Config.delim : Byte := 0x7E
/-- `RX_CAP`, the hard cap on bytes read in one receive. -/
def Config.rxCap : Nat := 600
/-- `RX_BUF`, the capacity of the receive accumulation buffer. -/
def Config.rxBuf : Nat := 1024
/-- The capacity of the request payload buffer `TXP` (10_state.md R20, R33). -/
def Config.txBuf : Nat := 260
/-- `N_MEAS`, the number of binary32 values in a measurement. -/
def Config.nMeas : Nat := 10
/-- `MEAS_DATA`, the data bytes of a full measurement response. -/
def Config.measData : Nat := 40
/-- `MEAS_LEN`, the payload length of a full measurement response. -/
def Config.measLen : Nat := 45
/-- `MIN_RSP`, the least length of a valid response payload. -/
def Config.minRsp : Nat := 5
/-- `INFO_CAP`, the capacity of the device-information buffer. -/
def Config.infoCap : Nat := 32
/-- `ADDR`, the address byte of every request. -/
def Config.addr : Byte := 0x00
/-- `STATE_OK`, the state byte of a successful response. -/
def Config.stateOk : Byte := 0x00
/-- `CODE_START`, the command code of start-measurement. -/
def Config.codeStart : Byte := 0x00
/-- `START_DATA`, the two data bytes of a start-measurement request. -/
def Config.startData : Bytes := [0x01, 0x03]

/-! The free values. None has a body: nothing can be proved of what they answer. -/

/-- FREE VALUE (log entry 3). The external codec's `Encode`: a function of its argument alone, `none` for
`fail` (R11, D5). -/
opaque Config.encode : Bytes → Option Bytes

/-- FREE VALUE (log entry 3). The external codec's `Decode` (R11, D5). -/
opaque Config.decode : Bytes → Option Bytes

/-- FREE VALUE (log entry 4). What the transport answers to the `n`-th `TX.write_all` of the machine's life
when the environment script of the state gives no answer (R56, D28). -/
opaque Config.txAnswer : Nat → TxAnswer

/-- FREE VALUE (log entry 4). What the transport answers to the `n`-th `RX.poll()` of the machine's life when
the environment script of the state gives no answer (R57, D28). -/
opaque Config.rxAnswer : Nat → RxAnswer

/-- FREE VALUE (log entry 14). What the `n`-th *start* that finds an operand register it needs at NONE samples
from `OP`, if that one is at NONE: "unspecified" (R230). -/
opaque Config.unwrittenOp : Nat → Op

/-- FREE VALUE (log entry 14). What such a *start* samples from `ARG`. -/
opaque Config.unwrittenArg : Nat → Word

/-- FREE VALUE (log entry 14). What such a *start* samples from `SEL`. -/
opaque Config.unwrittenSel : Nat → Selector

end Sys2Proof
end

