-- ==== Sys2Proof/Machine/RefCodec.lean ====
section
/-! DEFINITION. The frame codec as the engine calls it (00_scope.md R11, 20_memory.md R58): the external,
uninterpreted one, the reference codec of 93_implementation_defined.md G5 (general knowledge), and tables (log entry 3). -/

namespace Sys2Proof

/-- `stuff(b)` of G5. -/
def refStuff (b : Byte) : Bytes :=
  if b = 0x7E then [0x7D, 0x5E]
  else if b = 0x7D then [0x7D, 0x5D]
  else if b = 0x11 then [0x7D, 0x31]
  else if b = 0x13 then [0x7D, 0x33]
  else [b]

/-- The byte an escaped byte stands for, none where G5's `RefDecode` fails. -/
def refUnescape (c : Byte) : Option Byte :=
  if c = 0x5E then some 0x7E
  else if c = 0x5D then some 0x7D
  else if c = 0x31 then some 0x11
  else if c = 0x33 then some 0x13
  else none

/-- Un-stuffing of the interior of a stream, left to right (G5). -/
def refUnstuff : Bytes → Option Bytes
  | [] => some []
  | [b] => if b = 0x7E ∨ b = 0x7D then none else some [b]
  | b :: c :: t =>
    if b = 0x7E then none
    else if b = 0x7D then
      match refUnescape c with
      | none => none
      | some v => (refUnstuff t).map (v :: ·)
    else (refUnstuff (c :: t)).map (b :: ·)

/-- `RefEncode(p)` of G5; it never fails. -/
def refEncode (p : Bytes) : Bytes := [0x7E] ++ p.flatMap refStuff ++ [0x7E]

/-- `RefDecode(s)` of G5. -/
def refDecode (s : Bytes) : Option Bytes :=
  if s.length < 2 ∨ s.head? ≠ some 0x7E ∨ s.getLast? ≠ some 0x7E then none
  else refUnstuff (s.drop 1).dropLast

/-- `Encode(p)` of the attached codec, `none` for `fail`. -/
def codecEncode : Codec → Bytes → Option Bytes
  | .external, p => Config.encode p
  | .reference, p => some (refEncode p)
  | .table encodes _, p => encodes.lookup p

/-- `Decode(s)` of the attached codec, `none` for `fail`. -/
def codecDecode : Codec → Bytes → Option Bytes
  | .external, s => Config.decode s
  | .reference, s => refDecode s
  | .table _ decodes, s => decodes.lookup s

end Sys2Proof
end

