-- ==== Sys2Proof/Machine/Numeric.lean ====
section
/-! DEFINITION. The checksum engine (40_checksum.md) and the numeric codecs (44_numeric_codecs.md). -/

namespace Sys2Proof

/-- The accumulator `ACC` after the checksum loop of R111: the running sum modulo 256, in index order. -/
def sum8 (s : Bytes) : Byte := s.foldl (fun acc b => acc + b) 0

/-- `Checksum(s)`, R110, R111: 255 less the sum of the bytes modulo 256. Not a CRC (C1). -/
def checksum (s : Bytes) : Byte := 255 - sum8 s

/-- `BE32Enc(v)`, R160: most significant byte first. -/
def be32Enc (v : Word) : Bytes :=
  [v.extractLsb' 24 8, v.extractLsb' 16 8, v.extractLsb' 8 8, v.extractLsb' 0 8]

/-- `BE32Dec([b0, b1, b2, b3])`, R162. -/
def be32Dec (b0 b1 b2 b3 : Byte) : Word := b0 ++ b1 ++ b2 ++ b3

/-- `F32Dec([b0, b1, b2, b3])`, R165: the binary32 pattern, no bit changed (R167). -/
def f32Dec (b0 b1 b2 b3 : Byte) : Word := be32Dec b0 b1 b2 b3

/-- The 4-byte groups of a byte sequence, each decoded by `F32Dec`, in order (R168). -/
def f32Groups : Bytes → List Word
  | a :: b :: c :: d :: t => f32Dec a b c d :: f32Groups t
  | _ => []

/-- The five cases of a binary32 pattern (R166; the layout is general knowledge, G1, log entry 12). -/
inductive F32Value where
  /-- `(-1)^neg * 2^(e-127) * (1 + frac / 2^23)` -/
  | normal (neg : Bool) (e : Nat) (frac : Nat)
  /-- `(-1)^neg * 2^(-126) * (frac / 2^23)` -/
  | subnormal (neg : Bool) (frac : Nat)
  | zero (neg : Bool)
  | inf (neg : Bool)
  | nan (neg : Bool) (quiet : Bool) (payload : Nat)
  deriving DecidableEq, Repr

/-- The value of a binary32 pattern by the table of R166. The machine never needs it. -/
def f32Value (w : Word) : F32Value :=
  let neg := w.getLsbD 31
  let e := (w.extractLsb' 23 8).toNat
  let frac := (w.extractLsb' 0 23).toNat
  if e = 255 then
    if frac = 0 then .inf neg else .nan neg (w.getLsbD 22) (w.extractLsb' 0 22).toNat
  else if e = 0 then
    if frac = 0 then .zero neg else .subnormal neg frac
  else .normal neg e frac

/-- The rational number of a finite pattern (R166), none for an infinity or a NaN. -/
def f32Rat (w : Word) : Option ℚ :=
  match f32Value w with
  | .normal neg e frac => some ((if neg then -1 else 1) * (2 : ℚ) ^ ((e : ℤ) - 127) * (1 + (frac : ℚ) / 2 ^ 23))
  | .subnormal neg frac => some ((if neg then -1 else 1) * (2 : ℚ) ^ (-126 : ℤ) * ((frac : ℚ) / 2 ^ 23))
  | .zero _ => some 0
  | .inf _ => none
  | .nan _ _ _ => none

end Sys2Proof
end

