-- ==== Sys2Proof/WellFormed.lean ====
section
/-! DEFINITION. Which parameters and which instructions are well formed. -/

namespace Sys2Proof

/-- R10 bounds `CI_PREFIX` to 0 to 251 bytes, so that a request's `data-length` fits a byte (R81). -/
def Params.wf (p : Params) : Bool := decide (p.ciPrefix.length ≤ 251)

/-- The seven command codes differ from each other, and so do the three selector codes. No meaning needs it
(R10); only a decoder that must tell rows apart by their code does. -/
def Params.distinct (p : Params) : Bool :=
  decide ([Config.codeStart, p.codeStop, p.codeRead, p.codeCi, p.codeFan, p.codeInfo, p.codeReset].Nodup) &&
  decide ([p.selProductName, p.selArticleCode, p.selSerialNumber].Nodup)

/-- An instruction is well formed when its row can encode it: a response's data fit its `data-length` byte
(R83, R152), a full measurement has ten values (R183), and the `device_info.rsp` row has at most 32 data bytes
(R94). -/
def Instr.wf : Instr → Bool
  | .startMeasurement => true
  | .stopMeasurement => true
  | .readMeasurement => true
  | .readCleaningInterval => true
  | .writeCleaningInterval _ => true
  | .startFanCleaning => true
  | .deviceInfo _ => true
  | .reset => true
  | .startMeasurementRsp _ data _ => decide (data.length ≤ 255)
  | .stopMeasurementRsp _ data _ => decide (data.length ≤ 255)
  | .readMeasurementRsp _ values _ => decide (values.length = Config.nMeas)
  | .readCleaningIntervalRsp _ _ _ => true
  | .writeCleaningIntervalRsp _ _ => true
  | .startFanCleaningRsp _ data _ => decide (data.length ≤ 255)
  | .deviceInfoRsp _ data _ => decide (data.length ≤ Config.infoCap)
  | .resetRsp _ data _ => decide (data.length ≤ 255)

end Sys2Proof
end

