-- ==== Sys2Proof/Decode.lean ====
section
/-! DEFINITION. The encodings of 30_encoding.md: the decoder, total on any bytes and rejecting by name, then
the encoder, written from the same tables (R80, R83, R86 to R90, opcode_table.json). -/

namespace Sys2Proof

/-- The default parameter values of R10. All but the empty `CI_PREFIX` are general knowledge (G2, log entry 1);
the attached codec is the uninterpreted one (R11). -/
def defaultParams : Params where
  codeStop := 0x01
  codeRead := 0x03
  codeCi := 0x80
  codeFan := 0x56
  codeInfo := 0xD0
  codeReset := 0xD3
  selProductName := 0x01
  selArticleCode := 0x02
  selSerialNumber := 0x03
  ciPrefix := []
  codec := .external

/-- `Code(OP)`, the command code map of R87. -/
def codeOf (p : Params) : Op → Byte
  | .startMeasurement => Config.codeStart
  | .stopMeasurement => p.codeStop
  | .readMeasurement => p.codeRead
  | .readCleaningInterval => p.codeCi
  | .writeCleaningInterval => p.codeCi
  | .startFanCleaning => p.codeFan
  | .deviceInfo => p.codeInfo
  | .reset => p.codeReset

/-- `SelCode(SEL)`, R88. -/
def selCode (p : Params) : Selector → Byte
  | .productName => p.selProductName
  | .articleCode => p.selArticleCode
  | .serialNumber => p.selSerialNumber

/-- `ReqData(OP, ARG, SEL)`, the request data of R86; a response row has none. -/
def requestData (p : Params) : Instr → Bytes
  | .startMeasurement => Config.startData
  | .stopMeasurement => []
  | .readMeasurement => []
  | .readCleaningInterval => p.ciPrefix
  | .writeCleaningInterval arg => p.ciPrefix ++ be32Enc arg
  | .startFanCleaning => []
  | .deviceInfo sel => [selCode p sel]
  | .reset => []
  | .startMeasurementRsp _ _ _ => []
  | .stopMeasurementRsp _ _ _ => []
  | .readMeasurementRsp _ _ _ => []
  | .readCleaningIntervalRsp _ _ _ => []
  | .writeCleaningIntervalRsp _ _ => []
  | .startFanCleaningRsp _ _ _ => []
  | .deviceInfoRsp _ _ _ => []
  | .resetRsp _ _ _ => []

/-! ## The decoder -/

/-- Why a byte sequence is not a row of the table. -/
inductive Reject where
  /-- fewer bytes than the format's fixed fields need -/
  | short
  /-- a request whose address byte is not 0 (R80) -/
  | address
  /-- a `data-length` byte that disagrees with the data, or that the row does not allow (R80, R83) -/
  | length
  /-- a request whose last byte is not the checksum of the rest (R80) -/
  | checksum
  /-- a command code, or data for it, that no operation's request has (R86, R87) -/
  | data
  /-- a response with another command code than the row's (R91) -/
  | command
  /-- a response with a non-zero state byte (R91) -/
  | state
  deriving DecidableEq, Repr

/-- Why the decoder refuses: no request row for the first reason, no response row for the second. -/
structure DecodeError where
  request : Reject
  response : Reject
  deriving DecidableEq, Repr

/-- The selector a selector code stands for (R88). -/
def selOf (p : Params) (b : Byte) : Option Selector :=
  if b = p.selProductName then some .productName
  else if b = p.selArticleCode then some .articleCode
  else if b = p.selSerialNumber then some .serialNumber
  else none

/-- The `ARG` of a write-cleaning-interval request's data `CI_PREFIX ++ BE32Enc(ARG)` (R86). -/
def writeArgOf (p : Params) (data : Bytes) : Option Word :=
  if data.take p.ciPrefix.length = p.ciPrefix then
    match data.drop p.ciPrefix.length with
    | [b0, b1, b2, b3] => some (be32Dec b0 b1 b2 b3)
    | _ => none
  else none

/-- The operation of a request with command code `c` and these data bytes, by the tables of R86 and R87. -/
def requestOf (p : Params) (c : Byte) (data : Bytes) : Except Reject Instr :=
  if c = Config.codeStart ∧ data = Config.startData then .ok .startMeasurement
  else if c = p.codeStop ∧ data = [] then .ok .stopMeasurement
  else if c = p.codeRead ∧ data = [] then .ok .readMeasurement
  else if c = p.codeCi ∧ data = p.ciPrefix then .ok .readCleaningInterval
  else if c = p.codeFan ∧ data = [] then .ok .startFanCleaning
  else if c = p.codeReset ∧ data = [] then .ok .reset
  else
    match (if c = p.codeCi then writeArgOf p data else none) with
    | some arg => .ok (.writeCleaningInterval arg)
    | none =>
      match (if c = p.codeInfo ∧ data.length = 1 then data.head?.bind (selOf p) else none) with
      | some sel => .ok (.deviceInfo sel)
      | none => .error .data

/-- A request payload `[address, command, data-length, data..., checksum]` (R80), read whole. -/
def decodeRequest (p : Params) : Bytes → Except Reject Instr
  | a :: c :: l :: rest =>
    match rest.getLast? with
    | none => .error .short
    | some cc =>
      if a ≠ Config.addr then .error .address
      else if rest.dropLast.length ≠ l.toNat then .error .length
      else if cc ≠ checksum (a :: c :: l :: rest.dropLast) then .error .checksum
      else requestOf p c rest.dropLast
  | _ => .error .short

/-- The fields a response row of operation `o` leaves free: address byte, data and checksum byte. A row accepts the
data lengths of R90; that of `device_info` is bounded by 32 (R94). -/
def responseOf (o : Op) (a : Byte) (data : Bytes) (cc : Byte) : Except Reject Instr :=
  match o with
  | .startMeasurement => .ok (.startMeasurementRsp a data cc)
  | .stopMeasurement => .ok (.stopMeasurementRsp a data cc)
  | .readMeasurement =>
    if data.length = Config.measData then .ok (.readMeasurementRsp a (f32Groups data) cc) else .error .length
  | .readCleaningInterval =>
    match data with
    | [b0, b1, b2, b3] => .ok (.readCleaningIntervalRsp a (be32Dec b0 b1 b2 b3) cc)
    | _ => .error .length
  | .writeCleaningInterval =>
    match data with
    | [] => .ok (.writeCleaningIntervalRsp a cc)
    | _ => .error .length
  | .startFanCleaning => .ok (.startFanCleaningRsp a data cc)
  | .deviceInfo => if data.length ≤ Config.infoCap then .ok (.deviceInfoRsp a data cc) else .error .length
  | .reset => .ok (.resetRsp a data cc)

/-- A response payload `[address, command, state, data-length, data..., checksum]` (R83) read against the
response row of operation `o`: the row's `match` under its `mask`, and what a mask cannot say (R94), `data-length`
equal to the payload length less 5 and the lengths the row accepts. The checksum byte is taken as it stands: whether it is right is `P_CHECK`'s question. -/
def decodeResponseFor (p : Params) (o : Op) : Bytes → Except Reject Instr
  | a :: c :: st :: l :: rest =>
    match rest.getLast? with
    | none => .error .short
    | some cc =>
      if c ≠ codeOf p o then .error .command
      else if st ≠ Config.stateOk then .error .state
      else if rest.dropLast.length ≠ l.toNat then .error .length
      else responseOf o a rest.dropLast cc
  | _ => .error .short

/-- The operations in the table's order. -/
def Op.all : List Op :=
  [.startMeasurement, .stopMeasurement, .readMeasurement, .readCleaningInterval, .writeCleaningInterval,
    .startFanCleaning, .deviceInfo, .reset]

/-- The first row, in the list's order, that a response payload matches; else why the last row of the list
that has the payload's command code refuses it. -/
def decodeResponseAmong (p : Params) (bs : Bytes) : List Op → Except Reject Instr
  | [] => .error .command
  | o :: os =>
    match decodeResponseFor p o bs with
    | .ok i => .ok i
    | .error e =>
      match decodeResponseAmong p bs os with
      | .ok i => .ok i
      | .error e' => .error (if e' = .command then e else e')

/-- The response row a payload matches. -/
def decodeResponse (p : Params) (bs : Bytes) : Except Reject Instr :=
  decodeResponseAmong p bs Op.all

/-- The decoder: the row of the opcode table a payload is, total on any bytes. -/
def decode (p : Params) (bs : Bytes) : Except DecodeError Instr :=
  match decodeRequest p bs with
  | .ok i => .ok i
  | .error e =>
    match decodeResponse p bs with
    | .ok i => .ok i
    | .error e' => .error { request := e, response := e' }

/-! ## The encoder -/

/-- A request's bytes before its checksum (R80). -/
def requestHead (code : Byte) (data : Bytes) : Bytes :=
  [Config.addr, code, BitVec.ofNat 8 data.length] ++ data

/-- The request payload `[0, code, data-length, data..., checksum]` (R80, R120). -/
def requestPayload (code : Byte) (data : Bytes) : Bytes :=
  requestHead code data ++ [checksum (requestHead code data)]

/-- A response's bytes before its checksum byte (R83), with state 0. -/
def responseHead (a code : Byte) (data : Bytes) : Bytes :=
  [a, code, Config.stateOk, BitVec.ofNat 8 data.length] ++ data

/-- The response payload `[address, command, 0, data-length, data..., checksum]` (R83). -/
def responsePayload (a code : Byte) (data : Bytes) (cc : Byte) : Bytes :=
  responseHead a code data ++ [cc]

/-- The payload of an instruction: what its row of the opcode table spells out (R89, R90). -/
def encode (p : Params) : Instr → Bytes
  | .startMeasurement => requestPayload Config.codeStart (requestData p .startMeasurement)
  | .stopMeasurement => requestPayload p.codeStop (requestData p .stopMeasurement)
  | .readMeasurement => requestPayload p.codeRead (requestData p .readMeasurement)
  | .readCleaningInterval => requestPayload p.codeCi (requestData p .readCleaningInterval)
  | .writeCleaningInterval arg => requestPayload p.codeCi (requestData p (.writeCleaningInterval arg))
  | .startFanCleaning => requestPayload p.codeFan (requestData p .startFanCleaning)
  | .deviceInfo sel => requestPayload p.codeInfo (requestData p (.deviceInfo sel))
  | .reset => requestPayload p.codeReset (requestData p .reset)
  | .startMeasurementRsp a data cc => responsePayload a Config.codeStart data cc
  | .stopMeasurementRsp a data cc => responsePayload a p.codeStop data cc
  | .readMeasurementRsp a values cc => responsePayload a p.codeRead (values.flatMap be32Enc) cc
  | .readCleaningIntervalRsp a value cc => responsePayload a p.codeCi (be32Enc value) cc
  | .writeCleaningIntervalRsp a cc => responsePayload a p.codeCi [] cc
  | .startFanCleaningRsp a data cc => responsePayload a p.codeFan data cc
  | .deviceInfoRsp a data cc => responsePayload a p.codeInfo data cc
  | .resetRsp a data cc => responsePayload a p.codeReset data cc

/-! ## Words of the opcode table -/

/-- The `n` bytes of a number read as one big-endian word: the first byte is the most significant (R94: the
table's patterns are one number, `address` in the most significant byte). -/
def wordBytes (n w : Nat) : Bytes :=
  (List.range n).map fun k => BitVec.ofNat 8 (w >>> (8 * (n - 1 - k)))

/-- The payload a table word stands for (log entry 9). A row of at most 32 bits is one 32-bit word. If those
bytes are not a whole request they are the first four bytes of a response, whose data and checksum byte, which
the table gives no bits, are zeros. -/
def tablePayload (nbits w : Nat) : Bytes :=
  let bs := wordBytes (if nbits ≤ 32 then 4 else (nbits + 7) / 8) w
  match decodeRequest defaultParams bs with
  | .ok _ => bs
  | .error _ => if nbits ≤ 32 then bs ++ List.replicate ((bs.getD 3 0).toNat + 1) 0 else bs

/-- The instruction the decoder reads from a table word, with the default parameters. -/
def decodeTableWord (nbits w : Nat) : Option Instr :=
  (decode defaultParams (tablePayload nbits w)).toOption

end Sys2Proof
end

