-- ==== Sys2Proof/Machine/State.lean ====
section
/-! DEFINITION. The machine's state as plain data (10_state.md R20), the reasons a step can stop, and the
state after reset (70_reset_and_hazards.md R230). -/

namespace Sys2Proof.Machine

/-- `STATUS` (R20, R26). -/
inductive Status where
  | idle
  | busy
  | ok
  | err
  deriving DecidableEq, Repr

/-- `ERR`: the error kinds (60_exceptions.md R200). -/
inductive ErrKind where
  | noError
  | writeError
  | readError
  | framingError
  | invalidFrame
  | emptyResult
  | checksumFailed
  | invalidResponse
  | statusError
  deriving DecidableEq, Repr

/-- `PHASE`, the sequencer's nine phases: the engine's program counter (10_state.md R24). -/
inductive Phase where
  | idle
  | build
  | encode
  | send
  | recv
  | decode
  | check
  | validate
  | extract
  deriving DecidableEq, Repr

/-- The three buffer spaces (20_memory.md R50). -/
inductive Space where
  | txp
  | rxs
  | rxp
  deriving DecidableEq, Repr

/-- The registers the host can read (R20, column "host access"). -/
inductive HostReg where
  | status
  | err
  | f (i : Fin 10)
  | ci
  | info (i : Fin 32)
  | infoLen
  deriving DecidableEq, Repr

/-- What a host read delivers. -/
inductive HostValue where
  | status (v : Status)
  | err (v : ErrKind)
  | word (v : Word)
  | byte (v : Byte)
  | length (n : Nat)
  deriving DecidableEq, Repr

/-- The host's moves (10_state.md R22, R23; 70_reset_and_hazards.md R230): writing an operand register,
*start*, reading a register, the block's reset input, or nothing (`quiet`: the engine takes its step). -/
inductive HostMove where
  | quiet
  | writeOp (o : Op)
  | writeArg (v : Word)
  | writeSel (x : Selector)
  | start
  | read (r : HostReg)
  | reset
  deriving DecidableEq, Repr

/-- A buffer's contents: (index, byte) pairs, indices strictly rising. An unlisted index holds NONE (R21). -/
abbrev Memory := List Host.Cell

/-- The state of the machine. The first part is the table of R20, register by register; NONE (R21) is the
spec's own value and is `none`, or an unlisted index of a buffer. The second part is the model's own: the
parameters (which no step changes), the value passed from `P_ENCODE` to `P_SEND` (R33), the environment's
scripts, and the record of what crossed the ports. -/
structure State where
  /-- the parameters of R10 (configuration, not state of the engine) -/
  params : Params
  /-- `OP`, operand register -/
  op : Option Op
  /-- `ARG`, operand register, 32 bits -/
  arg : Option Word
  /-- `SEL`, operand register -/
  sel : Option Selector
  /-- `STATUS` -/
  status : Status
  /-- `ERR` -/
  err : ErrKind
  /-- `F[0..9]`, written all ten together (R30) -/
  f : Option (List Word)
  /-- `CI`, 32 bits -/
  ci : Option Word
  /-- `INFO[0..31]`, written all 32 together (R187) -/
  info : Option Bytes
  /-- `INFO_LEN`, 0 to 32 -/
  infoLen : Option Nat
  /-- `PHASE`, the program counter -/
  phase : Phase
  /-- `ISSUED`, the latched command code -/
  issued : Option Byte
  /-- `TXP[0..259]` -/
  txp : Memory
  /-- `TXP_LEN` -/
  txpLen : Nat
  /-- `RXS[0..1023]` -/
  rxs : Memory
  /-- `RX_CNT` -/
  rxCnt : Nat
  /-- `DELIMS` -/
  delims : Nat
  /-- `RXP[0..]` -/
  rxp : Memory
  /-- `RXP_LEN` -/
  rxpLen : Nat
  /-- `ACC`, the checksum accumulator -/
  acc : Byte
  /-- model's own: the encoded stream, passed from `P_ENCODE` to `P_SEND` (R33) -/
  stream : Bytes
  /-- model's own: the host's moves to come, one per step; none listed: the host does nothing -/
  host : List HostMove
  /-- model's own: what the host's last read delivered, none if it delivered no value -/
  hostRd : Option HostValue
  /-- model's own: the transport's next answers to `TX.write_all` -/
  txIn : List TxAnswer
  /-- model's own: the transport's next answers to `RX.poll` -/
  rxIn : List RxAnswer
  /-- model's own: how many `TX.write_all` calls have been made -/
  writes : Nat
  /-- model's own: how many `RX.poll` calls have been made -/
  polls : Nat
  /-- model's own: how many bytes have been consumed from the transport -/
  taken : Nat
  /-- model's own: the bytes the transport has accepted, oldest first -/
  wire : Bytes
  /-- model's own: how many *start*s have found an operand register they need at NONE -/
  draws : Nat
  /-- model's own: how many host reads were faults of the host's program (R21) -/
  hostFaults : Nat
  deriving DecidableEq, Repr

/-- Why the machine stops with a fault. -/
inductive Fault where
  /-- The engine reads a register or a buffer byte that holds NONE. Raised by a phase action in a state no
  run reaches (R21: the engine never does it); safe. -/
  | engineReadsNone
  /-- The engine writes a buffer index beyond the buffer's capacity (R50). Raised by `P_BUILD` or `P_RECV` in a
  state no run reaches; safe. -/
  | outsideBuffer
  deriving DecidableEq, Repr

/-- Why the machine refuses a move or an instruction. -/
inductive Refusal where
  /-- An instruction with no meaning yet; raised only by an arm of `exec`; safe. -/
  | notModelled (mnemonic : String)
  /-- *start* while `STATUS = BUSY`: the host has no such move (R23, U7). Raised by *start*; safe. -/
  | startWhileBusy
  /-- A write to an operand register while `STATUS = BUSY` (R23, U7). Raised by the host's writes; safe. -/
  | operandWriteWhileBusy
  /-- A response payload outside `P_CHECK`, `P_VALIDATE` and `P_EXTRACT`, where the engine holds none (R24,
  R35). Raised by the meaning of a response row; no step of the machine asks for it; safe. -/
  | noResponseExpected
  deriving DecidableEq, Repr

/-- The state after the engine's reset, R230: idle and ready, counters 0, everything else NONE. The parameters
are the defaults of R10; the host and the transport have done nothing yet. -/
def State.reset : State where
  params := defaultParams
  op := none
  arg := none
  sel := none
  status := .idle
  err := .noError
  f := none
  ci := none
  info := none
  infoLen := none
  phase := .idle
  issued := none
  txp := []
  txpLen := 0
  rxs := []
  rxCnt := 0
  delims := 0
  rxp := []
  rxpLen := 0
  acc := 0
  stream := []
  host := []
  hostRd := none
  txIn := []
  rxIn := []
  writes := 0
  polls := 0
  taken := 0
  wire := []
  draws := 0
  hostFaults := 0

end Sys2Proof.Machine
end

