-- ==== Sys2Proof/Machine/Ops.lean ====
section
/-! DEFINITION. The named operations over the buffers, the ports and the registers; taking an error
(60_exceptions.md R210) and what stands in for the return from one, the next *start* (R214, 10_state.md R26). -/

namespace Sys2Proof.Machine

/-! ## The spec's numbers of the enumerations (visible to nobody but for `ERR`) -/

/-- The numbers 0 to 7 of the operations (R22). -/
def opNumber : Op → Nat
  | .startMeasurement => 0
  | .stopMeasurement => 1
  | .readMeasurement => 2
  | .readCleaningInterval => 3
  | .writeCleaningInterval => 4
  | .startFanCleaning => 5
  | .deviceInfo => 6
  | .reset => 7

/-- The numbers 0 to 8 of the phases (R24). -/
def phaseNumber : Phase → Nat
  | .idle => 0
  | .build => 1
  | .encode => 2
  | .send => 3
  | .recv => 4
  | .decode => 5
  | .check => 6
  | .validate => 7
  | .extract => 8

/-- The 4-bit codes of `ERR` (R200). -/
def errCode : ErrKind → BitVec 4
  | .noError => 0
  | .writeError => 1
  | .readError => 2
  | .framingError => 3
  | .invalidFrame => 4
  | .emptyResult => 5
  | .checksumFailed => 6
  | .invalidResponse => 7
  | .statusError => 8

/-! ## Buffers -/

/-- The canonical form of a buffer: indices strictly rising (so none is listed twice). No entry can equal what
an unlisted index reads as, since that is NONE. -/
abbrev Memory.wf (m : Memory) : Prop := m.Pairwise fun x y => x.1 < y.1

/-- The byte at an index; an unlisted index holds NONE (R21). -/
def Memory.read : Memory → Nat → Option Byte
  | [], _ => none
  | (b, v) :: t, a => if b = a then some v else Memory.read t a

/-- `BUF[a] <- v`, keeping the canonical form. -/
def Memory.write : Memory → Nat → Byte → Memory
  | [], a, v => [(a, v)]
  | (b, w) :: t, a, v =>
    if a < b then (a, v) :: (b, w) :: t
    else if a = b then (a, v) :: t
    else (b, w) :: Memory.write t a v

/-- The `n` bytes from index `a` on, none if one of them holds NONE. -/
def Memory.readBytes (m : Memory) : Nat → Nat → Option Bytes
  | _, 0 => some []
  | a, n + 1 =>
    match m.read a, Memory.readBytes m (a + 1) n with
    | some v, some vs => some (v :: vs)
    | _, _ => none

/-- Consecutive bytes stored from index `a` on, in index order. -/
def Memory.writeBytes : Memory → Nat → Bytes → Memory
  | m, _, [] => m
  | m, a, v :: vs => Memory.writeBytes (m.write a v) (a + 1) vs

/-- `MemRead(BUF + a, 4)`: big-endian (R52). -/
def Memory.read32 (m : Memory) (a : Nat) : Option Word :=
  match m.readBytes a 4 with
  | some [b0, b1, b2, b3] => some (be32Dec b0 b1 b2 b3)
  | _ => none

/-- `MemWrite(BUF + a, 4, v)`: big-endian (R52). -/
def Memory.write32 (m : Memory) (a : Nat) (v : Word) : Memory := m.writeBytes a (be32Enc v)

/-- The capacity of each space, none for the unbounded `RXP` (R50). -/
def capacity : Space → Option Nat
  | .txp => some Config.txBuf
  | .rxs => some Config.rxBuf
  | .rxp => none

/-- The `n` indices from `a` on exist in the space. -/
def inSpace (sp : Space) (a n : Nat) : Bool :=
  match capacity sp with
  | some c => decide (a + n ≤ c)
  | none => true

/-- The contents of a space. -/
def State.mem (s : State) : Space → Memory
  | .txp => s.txp
  | .rxs => s.rxs
  | .rxp => s.rxp

/-- The state with a space's contents replaced. -/
def State.setMem (s : State) (sp : Space) (m : Memory) : State :=
  match sp with
  | .txp => { s with txp := m }
  | .rxs => { s with rxs := m }
  | .rxp => { s with rxp := m }

/-- Stores bytes from index `a` of a space on; none if an index does not exist. -/
def State.store (s : State) (sp : Space) (a : Nat) (bs : Bytes) : Option State :=
  if inSpace sp a bs.length then some (s.setMem sp ((s.mem sp).writeBytes a bs)) else none

/-- `TXP[0..TXP_LEN-1]`. -/
def State.request (s : State) : Option Bytes := s.txp.readBytes 0 s.txpLen

/-- `RXS[0..RX_CNT-1]`. -/
def State.captured (s : State) : Option Bytes := s.rxs.readBytes 0 s.rxCnt

/-- `RXP[0..RXP_LEN-1]`. -/
def State.payload (s : State) : Option Bytes := s.rxp.readBytes 0 s.rxpLen

/-! ## The transport ports (20_memory.md R56, R57) -/

/-- The transport's answer to the next `TX.write_all`: the script's, else a free value. -/
def State.txNext (s : State) : TxAnswer :=
  match s.txIn with
  | a :: _ => a
  | [] => Config.txAnswer s.writes

/-- The transport's answer to the next `RX.poll`: the script's, else a free value. -/
def State.rxNext (s : State) : RxAnswer :=
  match s.rxIn with
  | a :: _ => a
  | [] => Config.rxAnswer s.polls

/-- How much of a stream the transport has accepted (R56): all of it, or the prefix of a failed write (D3). -/
def accepted : TxAnswer → Bytes → Bytes
  | .ok, stream => stream
  | .fail n, stream => stream.take n

/-- The call `TX.write_all(stream)`: its effect on the environment. -/
def State.afterWrite (s : State) (stream : Bytes) : State :=
  { s with
    txIn := s.txIn.tail
    writes := s.writes + 1
    wire := s.wire ++ accepted s.txNext stream }

/-- The call `RX.poll()`: its effect on the environment. A byte answered is removed from the transport for
good (R55); would-block and failure consume nothing. -/
def State.afterPoll (s : State) : State :=
  { s with
    rxIn := s.rxIn.tail
    polls := s.polls + 1
    taken := match s.rxNext with
      | .byte _ => s.taken + 1
      | .wouldBlock => s.taken
      | .fail => s.taken }

/-! ## The end of an operation and the next start -/

/-- All result registers at NONE (R26, R210). -/
def State.clearResults (s : State) : State :=
  { s with f := none, ci := none, info := none, infoLen := none }

/-- `raise K` (R210): TAKING AN ERROR, in one step. Nothing else changes: nothing is saved, sent or retried. -/
def State.raise (s : State) (k : ErrKind) : State :=
  { s.clearResults with err := k, status := .err, phase := .idle }

/-- The end of a successful operation (R180): `STATUS <- OK ; pc <- P_IDLE`. -/
def State.finish (s : State) : State := { s with status := .ok, phase := .idle }

/-- *Start* (R26, R45): `BUSY`, no error, no results, and every working register re-initialised. It is also all
there is of a return from an error (R214): nothing was saved and nothing is restored. `ISSUED`, a working
register too, is set to NONE (log entry 8). -/
def State.start (s : State) : State :=
  { s.clearResults with
    status := .busy
    err := .noError
    phase := .build
    issued := none
    txp := []
    txpLen := 0
    rxs := []
    rxCnt := 0
    delims := 0
    rxp := []
    rxpLen := 0
    acc := 0
    stream := [] }

/-- What a running phase leaves in the environment when it is abandoned (R231, R211): in `P_SEND` the call
`TX.write_all(stream)` is under way and has got as far as the transport's answer to it says, which is any prefix of
the stream (R56, log entry 16); in every other phase what the steps before it have left. -/
def State.abandon (s : State) : State := if s.phase = .send then s.afterWrite s.stream else s

/-- The engine's reset input (R230, R231, R232), accepted in any phase: the registers of R20 take their reset
values; the parameters, the host, the transport's received bytes and the record of the ports are untouched, but for
what `P_SEND` was sending. -/
def State.engineReset (s : State) : State :=
  { State.reset with
    params := s.params
    host := s.host
    hostRd := s.hostRd
    txIn := s.abandon.txIn
    rxIn := s.rxIn
    writes := s.abandon.writes
    polls := s.polls
    taken := s.taken
    wire := s.abandon.wire
    draws := s.draws
    hostFaults := s.hostFaults }

end Sys2Proof.Machine
end

