-- ==== Sys2Proof/Machine/Operands.lean ====
section
/-! DEFINITION. The operand forms: what the host presents for each operation (10_state.md R22), and the fields of
a decoded response payload (30_encoding.md R83). -/

namespace Sys2Proof.Machine

/-- The host's writes that present an operation (R22): `OP`, and `ARG` for `write_cleaning_interval`, `SEL` for
`device_info`. A response row presents nothing. -/
def State.present (s : State) : Instr → State
  | .startMeasurement => { s with op := some .startMeasurement }
  | .stopMeasurement => { s with op := some .stopMeasurement }
  | .readMeasurement => { s with op := some .readMeasurement }
  | .readCleaningInterval => { s with op := some .readCleaningInterval }
  | .writeCleaningInterval arg => { s with op := some .writeCleaningInterval, arg := some arg }
  | .startFanCleaning => { s with op := some .startFanCleaning }
  | .deviceInfo sel => { s with op := some .deviceInfo, sel := some sel }
  | .reset => { s with op := some .reset }
  | .startMeasurementRsp _ _ _ => s
  | .stopMeasurementRsp _ _ _ => s
  | .readMeasurementRsp _ _ _ => s
  | .readCleaningIntervalRsp _ _ _ => s
  | .writeCleaningIntervalRsp _ _ => s
  | .startFanCleaningRsp _ _ _ => s
  | .deviceInfoRsp _ _ _ => s
  | .resetRsp _ _ _ => s

/-- The operation the operand registers present, none where a register it needs holds NONE. Other operations
ignore `ARG` and `SEL` (R22). -/
def State.presented (s : State) : Option Instr :=
  match s.op with
  | none => none
  | some .startMeasurement => some .startMeasurement
  | some .stopMeasurement => some .stopMeasurement
  | some .readMeasurement => some .readMeasurement
  | some .readCleaningInterval => some .readCleaningInterval
  | some .writeCleaningInterval => s.arg.map .writeCleaningInterval
  | some .startFanCleaning => some .startFanCleaning
  | some .deviceInfo => s.sel.map .deviceInfo
  | some .reset => some .reset

/-- The operation *start* samples from the operand registers (R22, R23). A register it needs that holds NONE has an
unspecified value (R230): a free value, drawn afresh by each such *start* (log entry 14). -/
def State.sampled (s : State) : Instr :=
  match s.op.getD (Config.unwrittenOp s.draws) with
  | .startMeasurement => .startMeasurement
  | .stopMeasurement => .stopMeasurement
  | .readMeasurement => .readMeasurement
  | .readCleaningInterval => .readCleaningInterval
  | .writeCleaningInterval => .writeCleaningInterval (s.arg.getD (Config.unwrittenArg s.draws))
  | .startFanCleaning => .startFanCleaning
  | .deviceInfo => .deviceInfo (s.sel.getD (Config.unwrittenSel s.draws))
  | .reset => .reset

/-- The operand registers hold what *start* has sampled from them. -/
def State.drawOperands (s : State) : State := { s.present s.sampled with draws := s.draws + 1 }

/-- `RXP[1]`, the command code of a response payload. -/
def rspCommand (bs : Bytes) : Option Byte := bs[1]?

/-- `RXP[2]`, the state byte. -/
def rspState (bs : Bytes) : Option Byte := bs[2]?

/-- `RXP[3]`, the data-length byte. -/
def rspLength (bs : Bytes) : Option Byte := bs[3]?

/-- `RXP[4 .. 3+n]`, none if the payload is shorter. -/
def rspData (bs : Bytes) (n : Nat) : Option Bytes :=
  if 4 + n ≤ bs.length then some ((bs.drop 4).take n) else none

end Sys2Proof.Machine
end

