-- ==== Sys2Proof/Machine/Flags.lean ====
section
/-! DEFINITION. The delimiter counter `DELIMS` (10_state.md R28, 42_frame_reader.md R131) and the checks that
decide an error kind: the trailing checksum (R139, R140) and the validator's (a) to (d)
(43_response_validator.md R150 to R153). -/

namespace Sys2Proof.Machine

/-- `if b = 0x7E: DELIMS <- DELIMS + 1` (R131): every received byte `0x7E` counts, wherever it stands (R132). -/
def countDelim (b : Byte) (delims : Nat) : Nat := if b = Config.delim then delims + 1 else delims

/-- The comparison of `P_CHECK` (R139): the last byte against the checksum of the rest. -/
def checksumMatches (bs : Bytes) : Bool :=
  match bs.getLast? with
  | none => false
  | some cc => decide (cc = checksum bs.dropLast)

/-- The validator's checks (a) to (d), in that order; the first that fails decides the kind (R150, R151). The
lengths are compared as integers (R152). The address byte is not examined (R153). -/
def validateKind (issued : Byte) (bs : Bytes) : Option ErrKind :=
  if bs.length < Config.minRsp then some .invalidResponse
  else if rspCommand bs ≠ some issued then some .invalidResponse
  else if rspState bs ≠ some Config.stateOk then some .statusError
  else if (rspLength bs).map BitVec.toNat ≠ some (bs.length - 5) then some .invalidResponse
  else none

end Sys2Proof.Machine
end

