-- ==== Sys2Proof/Machine/Phases.lean ====
section
/-! DEFINITION. The phase actions of the sequencer (10_state.md R24): one shared operation per phase, and the
template every operation runs (45_operations.md R180). -/

namespace Sys2Proof.Machine

/-- The three outcomes of one action of this machine. -/
abbrev Result := Host.Outcome State Fault Refusal

/-- `P_IDLE`: *start* of the operation the host presents (R22, R23, R26). -/
def startStep (i : Instr) (s : State) : Result :=
  if s.status = .busy then .refused .startWhileBusy else .next (s.present i).start

/-- `P_BUILD`, `Build()` (41_frame_builder.md R120, R121). -/
def buildStep (i : Instr) (s : State) : Result :=
  let code := codeOf s.params i.opOf
  let data := requestData s.params i
  match s.store .txp 0 (requestPayload code data) with
  | none => .fault .outsideBuffer
  | some t =>
    .next { t with
      issued := some code
      txpLen := data.length + 4
      acc := sum8 (requestHead code data)
      phase := .encode }

/-- `P_ENCODE`, `EncodeStep()` (R122). -/
def encodeStep (s : State) : Result :=
  match s.request with
  | none => .fault .engineReadsNone
  | some bs =>
    match codecEncode s.params.codec bs with
    | none => .next (s.raise .framingError)
    | some stream => .next { s with stream := stream, phase := .send }

/-- `P_SEND`, `Send()` (R123): one call, the whole stream. -/
def sendStep (s : State) : Result :=
  match s.txNext with
  | .fail _ => .next ((s.afterWrite s.stream).raise .writeError)
  | .ok => .next { s.afterWrite s.stream with rxCnt := 0, delims := 0, phase := .recv }

/-- The arm `byte(b)` of `RecvStep` (42_frame_reader.md R131), `s` being the state after the poll: the byte is
kept (R132), counted, and ends the receive when it is the second delimiter (R136) or the 600th byte (R133). -/
def recvByte (b : Byte) (s : State) : Result :=
  match s.store .rxs s.rxCnt [b] with
  | none => .fault .outsideBuffer
  | some t =>
    let u := { t with rxCnt := s.rxCnt + 1, delims := countDelim b s.delims }
    if u.delims = 2 then .next { u with phase := .decode }
    else if u.rxCnt = Config.rxCap then .next (u.raise .invalidFrame)
    else .next u

/-- `P_RECV`, `RecvStep()`: one poll (R131, R134, R135). -/
def recvStep (s : State) : Result :=
  match s.rxNext with
  | .wouldBlock => .next s.afterPoll
  | .fail => .next (s.afterPoll.raise .readError)
  | .byte b => recvByte b s.afterPoll

/-- `P_DECODE`, `DecodeStep()` (R137, R138). -/
def decodeStep (s : State) : Result :=
  match s.captured with
  | none => .fault .engineReadsNone
  | some bs =>
    match codecDecode s.params.codec bs with
    | none => .next (s.raise .framingError)
    | some r => .next { s with rxp := Memory.writeBytes [] 0 r, rxpLen := r.length, phase := .check }

/-- `P_CHECK`, `CheckStep()` on the decoded payload (R139, R140). An empty payload has no checksum byte, and no
checksum is computed. -/
def checkStep (bs : Bytes) (s : State) : Result :=
  let t := if bs = [] then s else { s with acc := sum8 bs.dropLast }
  if checksumMatches bs then .next { t with phase := .validate } else .next (t.raise .checksumFailed)

/-- `P_VALIDATE`, `Validate()` (43_response_validator.md R150). -/
def validateStep (bs : Bytes) (s : State) : Result :=
  match s.issued with
  | none => .fault .engineReadsNone
  | some code =>
    match validateKind code bs with
    | some k => .next (s.raise k)
    | none => .next { s with phase := .extract }

/-- `Extract_READ_MEASUREMENT()` (45_operations.md R183). -/
def extractMeasurement (bs : Bytes) (s : State) : Result :=
  if bs.length = Config.measLen then
    match rspData bs Config.measData with
    | none => .fault .engineReadsNone
    | some data => .next { s.finish with f := some (f32Groups data) }
  else if bs.length = Config.minRsp then .next (s.raise .emptyResult)
  else .next (s.raise .invalidFrame)

/-- `Extract_READ_CLEANING_INTERVAL()` (R184). -/
def extractInterval (bs : Bytes) (s : State) : Result :=
  match rspLength bs with
  | none => .fault .engineReadsNone
  | some l =>
    if l ≠ 4 then .next (s.raise .invalidResponse)
    else
      match rspData bs 4 with
      | some [b0, b1, b2, b3] => .next { s.finish with ci := some (be32Dec b0 b1 b2 b3) }
      | _ => .fault .engineReadsNone

/-- `Extract_WRITE_CLEANING_INTERVAL()` (R185). -/
def extractWritten (bs : Bytes) (s : State) : Result :=
  match rspLength bs with
  | none => .fault .engineReadsNone
  | some l => if l ≠ 0 then .next (s.raise .invalidResponse) else .next s.finish

/-- `Extract_DEVICE_INFO()` (R187): the data, then zero-fill to 32 bytes. -/
def extractInfo (bs : Bytes) (s : State) : Result :=
  match rspLength bs with
  | none => .fault .engineReadsNone
  | some l =>
    if Config.infoCap < l.toNat then .next (s.raise .emptyResult)
    else
      match rspData bs l.toNat with
      | none => .fault .engineReadsNone
      | some data =>
        .next { s.finish with
          info := some (data ++ List.replicate (Config.infoCap - l.toNat) 0)
          infoLen := some l.toNat }

/-- `P_EXTRACT`, `Extract_OP()` (R181 to R188, R190): the branch on the operation (R189). -/
def extractStep (o : Op) (bs : Bytes) (s : State) : Result :=
  match o with
  | .startMeasurement => .next s.finish
  | .stopMeasurement => .next s.finish
  | .readMeasurement => extractMeasurement bs s
  | .readCleaningInterval => extractInterval bs s
  | .writeCleaningInterval => extractWritten bs s
  | .startFanCleaning => .next s.finish
  | .deviceInfo => extractInfo bs s
  | .reset => .next s.finish

/-- The response phases of operation `o` on the decoded payload `bs`: `P_CHECK`, `P_VALIDATE`, `P_EXTRACT`. In
every other phase the engine holds no decoded payload (R24, R35) and a response is refused. -/
def respond (o : Op) (bs : Bytes) (s : State) : Result :=
  match s.phase with
  | .check => checkStep bs s
  | .validate => validateStep bs s
  | .extract => extractStep o bs s
  | .idle => .refused .noResponseExpected
  | .build => .refused .noResponseExpected
  | .encode => .refused .noResponseExpected
  | .send => .refused .noResponseExpected
  | .recv => .refused .noResponseExpected
  | .decode => .refused .noResponseExpected

/-- The response phases of an operation on the payload in `RXP`. -/
def respondHeld (o : Op) (s : State) : Result :=
  match s.payload with
  | none => .fault .engineReadsNone
  | some bs => respond o bs s

/-- The template of R180, one phase action of it: the action `PHASE` names, for the operation `i` presents. -/
def operate (i : Instr) (s : State) : Result :=
  match s.phase with
  | .idle => startStep i s
  | .build => buildStep i s
  | .encode => encodeStep s
  | .send => sendStep s
  | .recv => recvStep s
  | .decode => decodeStep s
  | .check => respondHeld i.opOf s
  | .validate => respondHeld i.opOf s
  | .extract => respondHeld i.opOf s

/-- A response payload before the engine: the response phases of the operation `OP` holds, on that payload. -/
def receive (bs : Bytes) (s : State) : Result :=
  match s.op with
  | none => .fault .engineReadsNone
  | some o => respond o bs s

end Sys2Proof.Machine
end

