-- ==== Sys2Proof/Machine/Request.lean ====
section
/-! DEFINITION. The meanings of the eight operations (45_operations.md R181 to R188): the template of R180 with
the operation's own request data (`requestData`, 30_encoding.md R86) and its own `Extract` (`extractStep`). -/

namespace Sys2Proof.Machine

/-- `start_measurement()`, R181. -/
def execStartMeasurement (s : State) : Result := operate .startMeasurement s

/-- `stop_measurement()`, R182. -/
def execStopMeasurement (s : State) : Result := operate .stopMeasurement s

/-- `read_measurement()`, R183. -/
def execReadMeasurement (s : State) : Result := operate .readMeasurement s

/-- `read_cleaning_interval()`, R184. -/
def execReadCleaningInterval (s : State) : Result := operate .readCleaningInterval s

/-- `write_cleaning_interval(arg)`, R185. -/
def execWriteCleaningInterval (arg : Word) (s : State) : Result := operate (.writeCleaningInterval arg) s

/-- `start_fan_cleaning()`, R186. -/
def execStartFanCleaning (s : State) : Result := operate .startFanCleaning s

/-- `device_info(sel)`, R187. -/
def execDeviceInfo (sel : Selector) (s : State) : Result := operate (.deviceInfo sel) s

/-- `reset()`, R188: asks the device to reset; it does not reset the engine. -/
def execReset (s : State) : Result := operate .reset s

end Sys2Proof.Machine
end

