-- ==== Sys2Proof/Machine/Response.lean ====
section
/-! DEFINITION. The meanings of the eight response rows of the opcode table (30_encoding.md R83, R90): the engine
takes the payload the row spells out through `P_CHECK`, `P_VALIDATE` and `P_EXTRACT`, one phase a step, for
the operation that is running. -/

namespace Sys2Proof.Machine

/-- `start_measurement.rsp`, R181. -/
def execStartMeasurementRsp (a : Byte) (data : Bytes) (cc : Byte) (s : State) : Result :=
  receive (encode s.params (.startMeasurementRsp a data cc)) s

/-- `stop_measurement.rsp`, R182. -/
def execStopMeasurementRsp (a : Byte) (data : Bytes) (cc : Byte) (s : State) : Result :=
  receive (encode s.params (.stopMeasurementRsp a data cc)) s

/-- `read_measurement.rsp`, R183. -/
def execReadMeasurementRsp (a : Byte) (values : List Word) (cc : Byte) (s : State) : Result :=
  receive (encode s.params (.readMeasurementRsp a values cc)) s

/-- `read_cleaning_interval.rsp`, R184. -/
def execReadCleaningIntervalRsp (a : Byte) (value : Word) (cc : Byte) (s : State) : Result :=
  receive (encode s.params (.readCleaningIntervalRsp a value cc)) s

/-- `write_cleaning_interval.rsp`, R185. -/
def execWriteCleaningIntervalRsp (a : Byte) (cc : Byte) (s : State) : Result :=
  receive (encode s.params (.writeCleaningIntervalRsp a cc)) s

/-- `start_fan_cleaning.rsp`, R186. -/
def execStartFanCleaningRsp (a : Byte) (data : Bytes) (cc : Byte) (s : State) : Result :=
  receive (encode s.params (.startFanCleaningRsp a data cc)) s

/-- `device_info.rsp`, R187. -/
def execDeviceInfoRsp (a : Byte) (data : Bytes) (cc : Byte) (s : State) : Result :=
  receive (encode s.params (.deviceInfoRsp a data cc)) s

/-- `reset.rsp`, R188. -/
def execResetRsp (a : Byte) (data : Bytes) (cc : Byte) (s : State) : Result :=
  receive (encode s.params (.resetRsp a data cc)) s

end Sys2Proof.Machine
end

