-- ==== Sys2Proof/Machine/Dispatch.lean ====
section
/-! DEFINITION. One arm per row of the opcode table. -/

namespace Sys2Proof.Machine

def exec (i : Instr) (s : State) : Host.Outcome State Fault Refusal :=
  match i with
  | .startMeasurement => Sys2Proof.Machine.execStartMeasurement s
  | .stopMeasurement => Sys2Proof.Machine.execStopMeasurement s
  | .readMeasurement => Sys2Proof.Machine.execReadMeasurement s
  | .readCleaningInterval => Sys2Proof.Machine.execReadCleaningInterval s
  | .writeCleaningInterval arg => Sys2Proof.Machine.execWriteCleaningInterval arg s
  | .startFanCleaning => Sys2Proof.Machine.execStartFanCleaning s
  | .deviceInfo sel => Sys2Proof.Machine.execDeviceInfo sel s
  | .reset => Sys2Proof.Machine.execReset s
  | .startMeasurementRsp a d c => Sys2Proof.Machine.execStartMeasurementRsp a d c s
  | .stopMeasurementRsp a d c => Sys2Proof.Machine.execStopMeasurementRsp a d c s
  | .readMeasurementRsp a v c => Sys2Proof.Machine.execReadMeasurementRsp a v c s
  | .readCleaningIntervalRsp a v c => Sys2Proof.Machine.execReadCleaningIntervalRsp a v c s
  | .writeCleaningIntervalRsp a c => Sys2Proof.Machine.execWriteCleaningIntervalRsp a c s
  | .startFanCleaningRsp a d c => Sys2Proof.Machine.execStartFanCleaningRsp a d c s
  | .deviceInfoRsp a d c => Sys2Proof.Machine.execDeviceInfoRsp a d c s
  | .resetRsp a d c => Sys2Proof.Machine.execResetRsp a d c s

end Sys2Proof.Machine
end

