-- ==== Sys2Proof/Machine/Engine.lean ====
section
/-! DEFINITION. What runs next: the engine's own choice of instruction, and the host's moves (10_state.md R22, R23;
70_reset_and_hazards.md R230, R231, R239). The engine fetches no instruction words (20_memory.md R62): an operation
is named by the operand registers, a response by the decoded payload in `RXP`. -/

namespace Sys2Proof.Machine

/-- The instruction the engine runs in its present phase, in a busy state. Up to `P_DECODE` it is the operation
the operand registers hold. From `P_CHECK` on it is the response row of that operation which the payload in
`RXP` matches; a payload that matches no row is handled by the operation itself (and ends in an error). -/
def fetch (s : State) : Option Instr :=
  match s.phase with
  | .idle => none
  | .build => s.presented
  | .encode => s.presented
  | .send => s.presented
  | .recv => s.presented
  | .decode => s.presented
  | .check => fetchResponse s
  | .validate => fetchResponse s
  | .extract => fetchResponse s
where
  /-- The response row of the running operation that `RXP` matches, else the operation. -/
  fetchResponse (s : State) : Option Instr :=
    match s.op, s.payload with
    | some o, some bs =>
      match decodeResponseFor s.params o bs with
      | .ok i => some i
      | .error _ => s.presented
    | _, _ => s.presented

/-- One step of the engine with no move of the host: in `P_IDLE` it waits (R24), else it runs what it fetches. -/
def engineStep (s : State) : Result :=
  match s.phase with
  | .idle => .next s
  | _ =>
    match fetch s with
    | none => .fault .engineReadsNone
    | some i => exec i s

/-- *Start* (R23): refused while `BUSY`, else the operation the operand registers hold is sampled and run (its first
step). Where one it needs holds NONE, its value is unspecified (R230) and the operation runs with a free one. -/
def hostStart (s : State) : Result :=
  if s.status = .busy then .refused .startWhileBusy
  else
    match s.presented with
    | none => exec s.sampled s.drawOperands
    | some i => exec i s

/-- What a register delivers to a host read, none where it holds NONE (R20, R21). -/
def hostValue (s : State) : HostReg → Option HostValue
  | .status => some (.status s.status)
  | .err => some (.err s.err)
  | .f i => (s.f.bind fun v => v[i.val]?).map .word
  | .ci => s.ci.map .word
  | .info i => (s.info.bind fun v => v[i.val]?).map .byte
  | .infoLen => s.infoLen.map .length

/-- A host read (R239): the value; where the register holds NONE, no value and a fault of the host's program (R21,
93_implementation_defined.md U8), which is recorded. The engine is untouched and goes on (log entry 17). -/
def hostRead (r : HostReg) (s : State) : Result :=
  match hostValue s r with
  | none => .next { s with hostRd := none, hostFaults := s.hostFaults + 1 }
  | some v => .next { s with hostRd := some v }

/-- A host write to an operand register: refused while `BUSY` (R23). -/
def hostWrite (s t : State) : Result :=
  if s.status = .busy then .refused .operandWriteWhileBusy else .next t

/-- One move of the host, already taken off the script. Only `quiet` lets the engine take its step. -/
def hostStep (m : HostMove) (s : State) : Result :=
  match m with
  | .quiet => engineStep s
  | .writeOp o => hostWrite s { s with op := some o }
  | .writeArg v => hostWrite s { s with arg := some v }
  | .writeSel x => hostWrite s { s with sel := some x }
  | .start => hostStart s
  | .read r => hostRead r s
  | .reset => .next s.engineReset

/-- The state in which the host's next move is *start* of operation `i` and the engine is idle. -/
def placeRequest (i : Instr) (s : State) : State :=
  { s.present i with
    phase := .idle
    status := if s.status = .busy then .idle else s.status
    host := .start :: s.host }

/-- The state in which the engine has just decoded the payload of response row `i` for its own operation, with
the operation running and the host quiet. `ARG` and `SEL` keep what they hold. -/
def placeResponse (i : Instr) (s : State) : State :=
  { s with
    op := some i.opOf
    phase := .check
    status := .busy
    issued := some (codeOf s.params i.opOf)
    rxp := Memory.writeBytes [] 0 (encode s.params i)
    rxpLen := (encode s.params i).length
    host := .quiet :: s.host }

/-- The state in which the next step runs the instruction a table word stands for (log entry 9). A word that is no
instruction leaves nothing to run: the engine is idle and the host quiet. -/
def placeWord (s : State) (nbits w : Nat) : State :=
  match decodeTableWord nbits w with
  | some i => if i.isRequest then placeRequest i s else placeResponse i s
  | none => { s with phase := .idle, status := if s.status = .busy then .idle else s.status, host := .quiet :: s.host }

end Sys2Proof.Machine
end

