-- ==== Sys2Proof/Machine/Step.lean ====
section
/-! DEFINITION. One step of the machine, and how the host places a table word before it. -/

namespace Sys2Proof.Machine

/-- One step: the host's next move if its script lists one, else the engine's own step (92_eei_decisions.md D21:
one phase action, in `P_RECV` one poll). -/
def step (s : State) : Host.Outcome State Fault Refusal :=
  match s.host with
  | [] => engineStep s
  | m :: rest => hostStep m { s with host := rest }

/-- `s` with the instruction of a table word placed where the next step takes it from (log entry 9). -/
def State.withFetchWord (s : State) (nbits w : Nat) : State := placeWord s nbits w

end Sys2Proof.Machine
end

