-- ==== Sys2Proof/Safety.lean ====
section
/-! DEFINITION. What claims about the machine are stated in: the invariant of its states, runs of several steps,
and the spec's own arithmetic of bytes. -/

namespace Sys2Proof.Machine

/-- The invariant of the machine's states. Each part is a sentence of the spec about what the registers hold
between two steps. -/
structure Inv (s : State) : Prop where
  /-- R10: `CI_PREFIX` has at most 251 bytes. -/
  params : s.params.wf = true
  /-- The buffers are in canonical form. -/
  txpWf : s.txp.wf
  rxsWf : s.rxs.wf
  rxpWf : s.rxp.wf
  /-- R50: nothing is held outside `TXP`'s 260 bytes. -/
  txpIn : ∀ c ∈ s.txp, c.1 < Config.txBuf
  /-- R34: indices 600 to 1023 of `RXS` are never written. -/
  rxsIn : ∀ c ∈ s.rxs, c.1 < Config.rxCap
  /-- R50, R21: the valid indices of each buffer hold bytes. -/
  txpHeld : s.request.isSome
  rxsHeld : s.captured.isSome
  rxpHeld : s.payload.isSome
  /-- R33: a request is at most 259 bytes long. -/
  txpCap : s.txpLen ≤ 259
  /-- R26: `BUSY` exactly while an operation runs. -/
  idleIff : s.phase = .idle ↔ s.status ≠ .busy
  /-- R26, R27: an error kind is recorded exactly when `STATUS = ERR`. -/
  errIff : s.status = .err ↔ s.err ≠ .noError
  /-- R26, R210: no result unless the last operation ended with success. -/
  noResult : s.status ≠ .ok → s.f = none ∧ s.ci = none ∧ s.info = none ∧ s.infoLen = none
  /-- R30: ten measurement values. -/
  fTen : ∀ v, s.f = some v → v.length = Config.nMeas
  /-- R32, R187: a 32-byte buffer and its reported length, both or neither. -/
  infoFull : ∀ v, s.info = some v → v.length = Config.infoCap
  infoLenCap : ∀ n, s.infoLen = some n → n ≤ Config.infoCap
  infoBoth : s.info.isSome = s.infoLen.isSome
  /-- R22, R23: while an operation runs its operands are held. -/
  busyPresents : s.status = .busy → s.presented.isSome
  /-- R37: from `P_ENCODE` on, `ISSUED` holds the running operation's command code. -/
  issuedCode : s.phase ≠ .idle → s.phase ≠ .build →
    ∃ o, s.op = some o ∧ s.issued = some (codeOf s.params o)
  /-- R28: `DELIMS` is 0, 1 or 2. -/
  delimsCap : s.delims ≤ 2
  /-- R34: `RX_CNT` never exceeds 600. -/
  rxCntCap : s.rxCnt ≤ Config.rxCap
  /-- R133: while the engine polls, neither the second delimiter nor the 600th byte has been seen. -/
  recvOpen : s.phase = .recv → s.delims < 2 ∧ s.rxCnt < Config.rxCap
  /-- R28: `DELIMS` counts the delimiters among the captured bytes. -/
  recvCounted : s.phase = .recv → ∃ bs, s.captured = some bs ∧ bs.count Config.delim = s.delims
  /-- R141: a completed receive ends with its second delimiter. -/
  frameDone : s.phase = .decode →
    ∃ bs, s.captured = some bs ∧ bs.count Config.delim = 2 ∧ bs.getLast? = some Config.delim
  /-- R154: what is extracted has passed the validator. -/
  extractValid : s.phase = .extract →
    ∃ bs c, s.payload = some bs ∧ s.issued = some c ∧ validateKind c bs = none
  /-- R57: at most one byte is consumed per poll. -/
  takenLe : s.taken ≤ s.polls

/-- `n` steps of the machine, stopping at the first fault or refusal. -/
def run : Nat → State → Result
  | 0, s => .next s
  | n + 1, s =>
    match step s with
    | .next t => run n t
    | .fault r => .fault r
    | .refused r => .refused r

/-- The sum of a byte sequence as an integer (R110). -/
def byteSum (bs : Bytes) : Nat := (bs.map BitVec.toNat).sum

/-- The engine is in the middle of an operation and the host makes no move in the next step. -/
def Undisturbed (s : State) : Prop := s.status = .busy ∧ s.host = []

/-- The bytes a script of poll answers delivers, would-block answers left out (R134). -/
def rxBytes : List RxAnswer → Bytes
  | [] => []
  | .byte b :: t => b :: rxBytes t
  | .wouldBlock :: t => rxBytes t
  | .fail :: t => rxBytes t

/-- The data bytes and the checksum byte of a response row's payload are such that its operation ends with
success on it (R90, R139): the checksum byte is right, and a device-information answer fits the buffer. -/
def succeeds (p : Params) (j : Instr) : Prop :=
  byteSum (encode p j) % 256 = 255 ∧
  match j with
  | .deviceInfoRsp _ data _ => data.length ≤ Config.infoCap
  | _ => True

/-- The result registers of `t` are those response row `j` leaves when its operation succeeds: that operation's
own hold its result and every other holds NONE (R180 to R188). -/
def delivers (j : Instr) (t : State) : Prop :=
  match j with
  | .readMeasurementRsp _ values _ => t.f = some values ∧ t.ci = none ∧ t.info = none ∧ t.infoLen = none
  | .readCleaningIntervalRsp _ value _ => t.f = none ∧ t.ci = some value ∧ t.info = none ∧ t.infoLen = none
  | .deviceInfoRsp _ data _ =>
    t.f = none ∧ t.ci = none ∧ t.info = some (data ++ List.replicate (32 - data.length) 0) ∧
    t.infoLen = some data.length
  | _ => t.f = none ∧ t.ci = none ∧ t.info = none ∧ t.infoLen = none

end Sys2Proof.Machine
end

