-- ==== Sys2Proof/Laws/Decode.lean ====
section
/-! SUPPORT. The small laws of the numeric codecs, and what a response row read by the decoder is. -/

namespace Sys2Proof

@[simp] theorem be32Enc_length (v : Word) : (be32Enc v).length = 4 := rfl

theorem be32Dec_be32Enc (v : Word) :
    be32Dec (v.extractLsb' 24 8) (v.extractLsb' 16 8) (v.extractLsb' 8 8) (v.extractLsb' 0 8) = v := by
  simp only [be32Dec]
  ext k hk
  simp only [BitVec.getElem_append, BitVec.getElem_extractLsb']
  repeat' split
  all_goals rw [BitVec.getElem_eq_testBit_toNat, BitVec.getLsbD]; congr 1; omega

theorem be32Enc_be32Dec (b0 b1 b2 b3 : Byte) : be32Enc (be32Dec b0 b1 b2 b3) = [b0, b1, b2, b3] := by
  simp only [be32Enc, be32Dec, List.cons.injEq, and_true]
  refine ⟨?_, ?_, ?_, ?_⟩ <;>
  · ext k hk
    simp only [BitVec.getElem_extractLsb', BitVec.getLsbD_append]
    repeat' split
    all_goals first
      | omega
      | (rw [BitVec.getElem_eq_testBit_toNat, BitVec.getLsbD]; congr 1; omega)

/-- The groups of a sequence of `4 n` bytes: `n` of them, and they are the sequence again. -/
theorem f32Groups_spec (n : Nat) (bs : Bytes) (h : bs.length = 4 * n) :
    (f32Groups bs).length = n ∧ (f32Groups bs).flatMap be32Enc = bs := by
  induction n generalizing bs with
  | zero => simp_all [f32Groups]
  | succ n ih =>
    match bs, h with
    | b0 :: b1 :: b2 :: b3 :: t, h =>
      obtain ⟨h1, h2⟩ := ih t (by simp at h; omega)
      simp [f32Groups, f32Dec, h1, h2, be32Enc_be32Dec]

/-- The groups of encoded words are the words. -/
theorem f32Groups_flatMap (vs : List Word) : f32Groups (vs.flatMap be32Enc) = vs := by
  induction vs with
  | nil => rfl
  | cons v vs ih =>
    rw [List.flatMap_cons, be32Enc]
    simp only [List.cons_append, List.nil_append, f32Groups, f32Dec, be32Dec_be32Enc, ih]

theorem length_flatMap_be32Enc (vs : List Word) : (vs.flatMap be32Enc).length = 4 * vs.length := by
  induction vs with
  | nil => rfl
  | cons v vs ih => simp [ih]; omega

@[simp] theorem sum8_nil : sum8 [] = 0 := rfl

theorem sum8_append_singleton (s : Bytes) (b : Byte) : sum8 (s ++ [b]) = sum8 s + b := by
  simp [sum8, List.foldl_append]

@[simp] theorem requestPayload_length (c : Byte) (d : Bytes) : (requestPayload c d).length = d.length + 4 := by
  simp [requestPayload, requestHead]

@[simp] theorem responsePayload_length (a c : Byte) (d : Bytes) (cc : Byte) :
    (responsePayload a c d cc).length = d.length + 5 := by
  simp [responsePayload, responseHead]

/-- A byte equal to a length is that length as a byte. -/
theorem ofNat_of_toNat_eq {l : Byte} {n : Nat} (h : n = l.toNat) : BitVec.ofNat 8 n = l := by
  subst h; simp

/-- The last byte put back. -/
theorem dropLast_append_of_getLast? {bs : Bytes} {b : Byte} (h : bs.getLast? = some b) :
    bs.dropLast ++ [b] = bs := List.dropLast_append_getLast? b h

/-- All that a response row read for operation `o` can be: well formed, that operation's own row, and its
encoding is the payload read. -/
theorem decodeResponseFor_spec {p : Params} {o : Op} {bs : Bytes} {i : Instr}
    (h : decodeResponseFor p o bs = .ok i) :
    i.isRequest = false ∧ i.opOf = o ∧ i.wf = true ∧ encode p i = bs := by
  unfold decodeResponseFor at h
  split at h
  case h_2 => cases h
  rename_i a c st l rest
  split at h
  case h_1 => cases h
  rename_i cc hcc
  split at h
  case isTrue => cases h
  rename_i hc
  split at h
  case isTrue => cases h
  rename_i hst
  split at h
  case isTrue => cases h
  rename_i hlen
  simp only [ne_eq, not_not] at hc hst hlen
  have hl : rest.dropLast.length ≤ 255 := by rw [hlen]; have := l.isLt; omega
  have hb := ofNat_of_toNat_eq hlen
  have hr := dropLast_append_of_getLast? hcc
  have hpay : ∀ c', c' = c → responsePayload a c' rest.dropLast cc = a :: c :: st :: l :: rest := by
    intro c' hc'
    subst hc'
    simp only [responsePayload, responseHead, hb, hst, List.cons_append, List.nil_append, hr]
  generalize hd : rest.dropLast = data at *
  cases o <;> simp only [responseOf] at h
  case readMeasurement =>
    split at h
    · rename_i h40
      cases h
      obtain ⟨h1, h2⟩ := f32Groups_spec 10 data (by rw [h40]; rfl)
      refine ⟨rfl, rfl, ?_, ?_⟩
      · simp [Instr.wf, h1, Config.nMeas]
      · rw [encode, h2]; exact hpay _ hc.symm
    · cases h
  case readCleaningInterval =>
    split at h
    · cases h
      refine ⟨rfl, rfl, rfl, ?_⟩
      rw [encode, be32Enc_be32Dec]; exact hpay _ hc.symm
    · cases h
  case writeCleaningInterval =>
    split at h
    · cases h
      exact ⟨rfl, rfl, rfl, hpay _ hc.symm⟩
    · cases h
  case deviceInfo =>
    split at h
    · rename_i h32
      cases h
      exact ⟨rfl, rfl, by simp [Instr.wf, h32], hpay _ hc.symm⟩
    · cases h
  all_goals
    cases h
    exact ⟨rfl, rfl, by simp [Instr.wf, hl], hpay _ hc.symm⟩

end Sys2Proof
end

