-- ==== Sys2Proof/Laws/State.lean ====
section
/-! SUPPORT. Every field of the state after every named update, so that no proof unfolds a record update. -/

namespace Sys2Proof.Machine

/-! ## `State.clearResults` -/

@[simp] theorem State.clearResults_params (s : State) : s.clearResults.params = s.params := rfl
@[simp] theorem State.clearResults_op (s : State) : s.clearResults.op = s.op := rfl
@[simp] theorem State.clearResults_arg (s : State) : s.clearResults.arg = s.arg := rfl
@[simp] theorem State.clearResults_sel (s : State) : s.clearResults.sel = s.sel := rfl
@[simp] theorem State.clearResults_status (s : State) : s.clearResults.status = s.status := rfl
@[simp] theorem State.clearResults_err (s : State) : s.clearResults.err = s.err := rfl
@[simp] theorem State.clearResults_f (s : State) : s.clearResults.f = none := rfl
@[simp] theorem State.clearResults_ci (s : State) : s.clearResults.ci = none := rfl
@[simp] theorem State.clearResults_info (s : State) : s.clearResults.info = none := rfl
@[simp] theorem State.clearResults_infoLen (s : State) : s.clearResults.infoLen = none := rfl
@[simp] theorem State.clearResults_phase (s : State) : s.clearResults.phase = s.phase := rfl
@[simp] theorem State.clearResults_issued (s : State) : s.clearResults.issued = s.issued := rfl
@[simp] theorem State.clearResults_txp (s : State) : s.clearResults.txp = s.txp := rfl
@[simp] theorem State.clearResults_txpLen (s : State) : s.clearResults.txpLen = s.txpLen := rfl
@[simp] theorem State.clearResults_rxs (s : State) : s.clearResults.rxs = s.rxs := rfl
@[simp] theorem State.clearResults_rxCnt (s : State) : s.clearResults.rxCnt = s.rxCnt := rfl
@[simp] theorem State.clearResults_delims (s : State) : s.clearResults.delims = s.delims := rfl
@[simp] theorem State.clearResults_rxp (s : State) : s.clearResults.rxp = s.rxp := rfl
@[simp] theorem State.clearResults_rxpLen (s : State) : s.clearResults.rxpLen = s.rxpLen := rfl
@[simp] theorem State.clearResults_acc (s : State) : s.clearResults.acc = s.acc := rfl
@[simp] theorem State.clearResults_stream (s : State) : s.clearResults.stream = s.stream := rfl
@[simp] theorem State.clearResults_host (s : State) : s.clearResults.host = s.host := rfl
@[simp] theorem State.clearResults_hostRd (s : State) : s.clearResults.hostRd = s.hostRd := rfl
@[simp] theorem State.clearResults_txIn (s : State) : s.clearResults.txIn = s.txIn := rfl
@[simp] theorem State.clearResults_rxIn (s : State) : s.clearResults.rxIn = s.rxIn := rfl
@[simp] theorem State.clearResults_writes (s : State) : s.clearResults.writes = s.writes := rfl
@[simp] theorem State.clearResults_polls (s : State) : s.clearResults.polls = s.polls := rfl
@[simp] theorem State.clearResults_taken (s : State) : s.clearResults.taken = s.taken := rfl
@[simp] theorem State.clearResults_wire (s : State) : s.clearResults.wire = s.wire := rfl
@[simp] theorem State.clearResults_draws (s : State) : s.clearResults.draws = s.draws := rfl
@[simp] theorem State.clearResults_hostFaults (s : State) : s.clearResults.hostFaults = s.hostFaults := rfl

/-! ## `State.raise` -/

@[simp] theorem State.raise_params (s : State) (k : ErrKind) : (s.raise k).params = s.params := rfl
@[simp] theorem State.raise_op (s : State) (k : ErrKind) : (s.raise k).op = s.op := rfl
@[simp] theorem State.raise_arg (s : State) (k : ErrKind) : (s.raise k).arg = s.arg := rfl
@[simp] theorem State.raise_sel (s : State) (k : ErrKind) : (s.raise k).sel = s.sel := rfl
@[simp] theorem State.raise_status (s : State) (k : ErrKind) : (s.raise k).status = .err := rfl
@[simp] theorem State.raise_err (s : State) (k : ErrKind) : (s.raise k).err = k := rfl
@[simp] theorem State.raise_f (s : State) (k : ErrKind) : (s.raise k).f = none := rfl
@[simp] theorem State.raise_ci (s : State) (k : ErrKind) : (s.raise k).ci = none := rfl
@[simp] theorem State.raise_info (s : State) (k : ErrKind) : (s.raise k).info = none := rfl
@[simp] theorem State.raise_infoLen (s : State) (k : ErrKind) : (s.raise k).infoLen = none := rfl
@[simp] theorem State.raise_phase (s : State) (k : ErrKind) : (s.raise k).phase = .idle := rfl
@[simp] theorem State.raise_issued (s : State) (k : ErrKind) : (s.raise k).issued = s.issued := rfl
@[simp] theorem State.raise_txp (s : State) (k : ErrKind) : (s.raise k).txp = s.txp := rfl
@[simp] theorem State.raise_txpLen (s : State) (k : ErrKind) : (s.raise k).txpLen = s.txpLen := rfl
@[simp] theorem State.raise_rxs (s : State) (k : ErrKind) : (s.raise k).rxs = s.rxs := rfl
@[simp] theorem State.raise_rxCnt (s : State) (k : ErrKind) : (s.raise k).rxCnt = s.rxCnt := rfl
@[simp] theorem State.raise_delims (s : State) (k : ErrKind) : (s.raise k).delims = s.delims := rfl
@[simp] theorem State.raise_rxp (s : State) (k : ErrKind) : (s.raise k).rxp = s.rxp := rfl
@[simp] theorem State.raise_rxpLen (s : State) (k : ErrKind) : (s.raise k).rxpLen = s.rxpLen := rfl
@[simp] theorem State.raise_acc (s : State) (k : ErrKind) : (s.raise k).acc = s.acc := rfl
@[simp] theorem State.raise_stream (s : State) (k : ErrKind) : (s.raise k).stream = s.stream := rfl
@[simp] theorem State.raise_host (s : State) (k : ErrKind) : (s.raise k).host = s.host := rfl
@[simp] theorem State.raise_hostRd (s : State) (k : ErrKind) : (s.raise k).hostRd = s.hostRd := rfl
@[simp] theorem State.raise_txIn (s : State) (k : ErrKind) : (s.raise k).txIn = s.txIn := rfl
@[simp] theorem State.raise_rxIn (s : State) (k : ErrKind) : (s.raise k).rxIn = s.rxIn := rfl
@[simp] theorem State.raise_writes (s : State) (k : ErrKind) : (s.raise k).writes = s.writes := rfl
@[simp] theorem State.raise_polls (s : State) (k : ErrKind) : (s.raise k).polls = s.polls := rfl
@[simp] theorem State.raise_taken (s : State) (k : ErrKind) : (s.raise k).taken = s.taken := rfl
@[simp] theorem State.raise_wire (s : State) (k : ErrKind) : (s.raise k).wire = s.wire := rfl
@[simp] theorem State.raise_draws (s : State) (k : ErrKind) : (s.raise k).draws = s.draws := rfl
@[simp] theorem State.raise_hostFaults (s : State) (k : ErrKind) : (s.raise k).hostFaults = s.hostFaults := rfl

/-! ## `State.finish` -/

@[simp] theorem State.finish_params (s : State) : s.finish.params = s.params := rfl
@[simp] theorem State.finish_op (s : State) : s.finish.op = s.op := rfl
@[simp] theorem State.finish_arg (s : State) : s.finish.arg = s.arg := rfl
@[simp] theorem State.finish_sel (s : State) : s.finish.sel = s.sel := rfl
@[simp] theorem State.finish_status (s : State) : s.finish.status = .ok := rfl
@[simp] theorem State.finish_err (s : State) : s.finish.err = s.err := rfl
@[simp] theorem State.finish_f (s : State) : s.finish.f = s.f := rfl
@[simp] theorem State.finish_ci (s : State) : s.finish.ci = s.ci := rfl
@[simp] theorem State.finish_info (s : State) : s.finish.info = s.info := rfl
@[simp] theorem State.finish_infoLen (s : State) : s.finish.infoLen = s.infoLen := rfl
@[simp] theorem State.finish_phase (s : State) : s.finish.phase = .idle := rfl
@[simp] theorem State.finish_issued (s : State) : s.finish.issued = s.issued := rfl
@[simp] theorem State.finish_txp (s : State) : s.finish.txp = s.txp := rfl
@[simp] theorem State.finish_txpLen (s : State) : s.finish.txpLen = s.txpLen := rfl
@[simp] theorem State.finish_rxs (s : State) : s.finish.rxs = s.rxs := rfl
@[simp] theorem State.finish_rxCnt (s : State) : s.finish.rxCnt = s.rxCnt := rfl
@[simp] theorem State.finish_delims (s : State) : s.finish.delims = s.delims := rfl
@[simp] theorem State.finish_rxp (s : State) : s.finish.rxp = s.rxp := rfl
@[simp] theorem State.finish_rxpLen (s : State) : s.finish.rxpLen = s.rxpLen := rfl
@[simp] theorem State.finish_acc (s : State) : s.finish.acc = s.acc := rfl
@[simp] theorem State.finish_stream (s : State) : s.finish.stream = s.stream := rfl
@[simp] theorem State.finish_host (s : State) : s.finish.host = s.host := rfl
@[simp] theorem State.finish_hostRd (s : State) : s.finish.hostRd = s.hostRd := rfl
@[simp] theorem State.finish_txIn (s : State) : s.finish.txIn = s.txIn := rfl
@[simp] theorem State.finish_rxIn (s : State) : s.finish.rxIn = s.rxIn := rfl
@[simp] theorem State.finish_writes (s : State) : s.finish.writes = s.writes := rfl
@[simp] theorem State.finish_polls (s : State) : s.finish.polls = s.polls := rfl
@[simp] theorem State.finish_taken (s : State) : s.finish.taken = s.taken := rfl
@[simp] theorem State.finish_wire (s : State) : s.finish.wire = s.wire := rfl
@[simp] theorem State.finish_draws (s : State) : s.finish.draws = s.draws := rfl
@[simp] theorem State.finish_hostFaults (s : State) : s.finish.hostFaults = s.hostFaults := rfl

/-! ## `State.start` -/

@[simp] theorem State.start_params (s : State) : s.start.params = s.params := rfl
@[simp] theorem State.start_op (s : State) : s.start.op = s.op := rfl
@[simp] theorem State.start_arg (s : State) : s.start.arg = s.arg := rfl
@[simp] theorem State.start_sel (s : State) : s.start.sel = s.sel := rfl
@[simp] theorem State.start_status (s : State) : s.start.status = .busy := rfl
@[simp] theorem State.start_err (s : State) : s.start.err = .noError := rfl
@[simp] theorem State.start_f (s : State) : s.start.f = none := rfl
@[simp] theorem State.start_ci (s : State) : s.start.ci = none := rfl
@[simp] theorem State.start_info (s : State) : s.start.info = none := rfl
@[simp] theorem State.start_infoLen (s : State) : s.start.infoLen = none := rfl
@[simp] theorem State.start_phase (s : State) : s.start.phase = .build := rfl
@[simp] theorem State.start_issued (s : State) : s.start.issued = none := rfl
@[simp] theorem State.start_txp (s : State) : s.start.txp = [] := rfl
@[simp] theorem State.start_txpLen (s : State) : s.start.txpLen = 0 := rfl
@[simp] theorem State.start_rxs (s : State) : s.start.rxs = [] := rfl
@[simp] theorem State.start_rxCnt (s : State) : s.start.rxCnt = 0 := rfl
@[simp] theorem State.start_delims (s : State) : s.start.delims = 0 := rfl
@[simp] theorem State.start_rxp (s : State) : s.start.rxp = [] := rfl
@[simp] theorem State.start_rxpLen (s : State) : s.start.rxpLen = 0 := rfl
@[simp] theorem State.start_acc (s : State) : s.start.acc = 0 := rfl
@[simp] theorem State.start_stream (s : State) : s.start.stream = [] := rfl
@[simp] theorem State.start_host (s : State) : s.start.host = s.host := rfl
@[simp] theorem State.start_hostRd (s : State) : s.start.hostRd = s.hostRd := rfl
@[simp] theorem State.start_txIn (s : State) : s.start.txIn = s.txIn := rfl
@[simp] theorem State.start_rxIn (s : State) : s.start.rxIn = s.rxIn := rfl
@[simp] theorem State.start_writes (s : State) : s.start.writes = s.writes := rfl
@[simp] theorem State.start_polls (s : State) : s.start.polls = s.polls := rfl
@[simp] theorem State.start_taken (s : State) : s.start.taken = s.taken := rfl
@[simp] theorem State.start_wire (s : State) : s.start.wire = s.wire := rfl
@[simp] theorem State.start_draws (s : State) : s.start.draws = s.draws := rfl
@[simp] theorem State.start_hostFaults (s : State) : s.start.hostFaults = s.hostFaults := rfl

/-! ## `State.engineReset` -/

@[simp] theorem State.engineReset_params (s : State) : s.engineReset.params = s.params := rfl
@[simp] theorem State.engineReset_op (s : State) : s.engineReset.op = none := rfl
@[simp] theorem State.engineReset_arg (s : State) : s.engineReset.arg = none := rfl
@[simp] theorem State.engineReset_sel (s : State) : s.engineReset.sel = none := rfl
@[simp] theorem State.engineReset_status (s : State) : s.engineReset.status = .idle := rfl
@[simp] theorem State.engineReset_err (s : State) : s.engineReset.err = .noError := rfl
@[simp] theorem State.engineReset_f (s : State) : s.engineReset.f = none := rfl
@[simp] theorem State.engineReset_ci (s : State) : s.engineReset.ci = none := rfl
@[simp] theorem State.engineReset_info (s : State) : s.engineReset.info = none := rfl
@[simp] theorem State.engineReset_infoLen (s : State) : s.engineReset.infoLen = none := rfl
@[simp] theorem State.engineReset_phase (s : State) : s.engineReset.phase = .idle := rfl
@[simp] theorem State.engineReset_issued (s : State) : s.engineReset.issued = none := rfl
@[simp] theorem State.engineReset_txp (s : State) : s.engineReset.txp = [] := rfl
@[simp] theorem State.engineReset_txpLen (s : State) : s.engineReset.txpLen = 0 := rfl
@[simp] theorem State.engineReset_rxs (s : State) : s.engineReset.rxs = [] := rfl
@[simp] theorem State.engineReset_rxCnt (s : State) : s.engineReset.rxCnt = 0 := rfl
@[simp] theorem State.engineReset_delims (s : State) : s.engineReset.delims = 0 := rfl
@[simp] theorem State.engineReset_rxp (s : State) : s.engineReset.rxp = [] := rfl
@[simp] theorem State.engineReset_rxpLen (s : State) : s.engineReset.rxpLen = 0 := rfl
@[simp] theorem State.engineReset_acc (s : State) : s.engineReset.acc = 0 := rfl
@[simp] theorem State.engineReset_stream (s : State) : s.engineReset.stream = [] := rfl
@[simp] theorem State.engineReset_host (s : State) : s.engineReset.host = s.host := rfl
@[simp] theorem State.engineReset_hostRd (s : State) : s.engineReset.hostRd = s.hostRd := rfl
@[simp] theorem State.engineReset_txIn (s : State) : s.engineReset.txIn = s.abandon.txIn := rfl
@[simp] theorem State.engineReset_rxIn (s : State) : s.engineReset.rxIn = s.rxIn := rfl
@[simp] theorem State.engineReset_writes (s : State) : s.engineReset.writes = s.abandon.writes := rfl
@[simp] theorem State.engineReset_polls (s : State) : s.engineReset.polls = s.polls := rfl
@[simp] theorem State.engineReset_taken (s : State) : s.engineReset.taken = s.taken := rfl
@[simp] theorem State.engineReset_wire (s : State) : s.engineReset.wire = s.abandon.wire := rfl
@[simp] theorem State.engineReset_draws (s : State) : s.engineReset.draws = s.draws := rfl
@[simp] theorem State.engineReset_hostFaults (s : State) : s.engineReset.hostFaults = s.hostFaults := rfl

/-! ## `State.afterWrite` -/

@[simp] theorem State.afterWrite_params (s : State) (x : Bytes) : (s.afterWrite x).params = s.params := rfl
@[simp] theorem State.afterWrite_op (s : State) (x : Bytes) : (s.afterWrite x).op = s.op := rfl
@[simp] theorem State.afterWrite_arg (s : State) (x : Bytes) : (s.afterWrite x).arg = s.arg := rfl
@[simp] theorem State.afterWrite_sel (s : State) (x : Bytes) : (s.afterWrite x).sel = s.sel := rfl
@[simp] theorem State.afterWrite_status (s : State) (x : Bytes) : (s.afterWrite x).status = s.status := rfl
@[simp] theorem State.afterWrite_err (s : State) (x : Bytes) : (s.afterWrite x).err = s.err := rfl
@[simp] theorem State.afterWrite_f (s : State) (x : Bytes) : (s.afterWrite x).f = s.f := rfl
@[simp] theorem State.afterWrite_ci (s : State) (x : Bytes) : (s.afterWrite x).ci = s.ci := rfl
@[simp] theorem State.afterWrite_info (s : State) (x : Bytes) : (s.afterWrite x).info = s.info := rfl
@[simp] theorem State.afterWrite_infoLen (s : State) (x : Bytes) : (s.afterWrite x).infoLen = s.infoLen := rfl
@[simp] theorem State.afterWrite_phase (s : State) (x : Bytes) : (s.afterWrite x).phase = s.phase := rfl
@[simp] theorem State.afterWrite_issued (s : State) (x : Bytes) : (s.afterWrite x).issued = s.issued := rfl
@[simp] theorem State.afterWrite_txp (s : State) (x : Bytes) : (s.afterWrite x).txp = s.txp := rfl
@[simp] theorem State.afterWrite_txpLen (s : State) (x : Bytes) : (s.afterWrite x).txpLen = s.txpLen := rfl
@[simp] theorem State.afterWrite_rxs (s : State) (x : Bytes) : (s.afterWrite x).rxs = s.rxs := rfl
@[simp] theorem State.afterWrite_rxCnt (s : State) (x : Bytes) : (s.afterWrite x).rxCnt = s.rxCnt := rfl
@[simp] theorem State.afterWrite_delims (s : State) (x : Bytes) : (s.afterWrite x).delims = s.delims := rfl
@[simp] theorem State.afterWrite_rxp (s : State) (x : Bytes) : (s.afterWrite x).rxp = s.rxp := rfl
@[simp] theorem State.afterWrite_rxpLen (s : State) (x : Bytes) : (s.afterWrite x).rxpLen = s.rxpLen := rfl
@[simp] theorem State.afterWrite_acc (s : State) (x : Bytes) : (s.afterWrite x).acc = s.acc := rfl
@[simp] theorem State.afterWrite_stream (s : State) (x : Bytes) : (s.afterWrite x).stream = s.stream := rfl
@[simp] theorem State.afterWrite_host (s : State) (x : Bytes) : (s.afterWrite x).host = s.host := rfl
@[simp] theorem State.afterWrite_hostRd (s : State) (x : Bytes) : (s.afterWrite x).hostRd = s.hostRd := rfl
@[simp] theorem State.afterWrite_txIn (s : State) (x : Bytes) : (s.afterWrite x).txIn = s.txIn.tail := rfl
@[simp] theorem State.afterWrite_rxIn (s : State) (x : Bytes) : (s.afterWrite x).rxIn = s.rxIn := rfl
@[simp] theorem State.afterWrite_writes (s : State) (x : Bytes) : (s.afterWrite x).writes = s.writes + 1 := rfl
@[simp] theorem State.afterWrite_polls (s : State) (x : Bytes) : (s.afterWrite x).polls = s.polls := rfl
@[simp] theorem State.afterWrite_taken (s : State) (x : Bytes) : (s.afterWrite x).taken = s.taken := rfl
@[simp] theorem State.afterWrite_wire (s : State) (x : Bytes) :
    (s.afterWrite x).wire = s.wire ++ accepted s.txNext x := rfl
@[simp] theorem State.afterWrite_draws (s : State) (x : Bytes) : (s.afterWrite x).draws = s.draws := rfl
@[simp] theorem State.afterWrite_hostFaults (s : State) (x : Bytes) :
    (s.afterWrite x).hostFaults = s.hostFaults := rfl

/-! ## `State.afterPoll` -/

@[simp] theorem State.afterPoll_params (s : State) : s.afterPoll.params = s.params := rfl
@[simp] theorem State.afterPoll_op (s : State) : s.afterPoll.op = s.op := rfl
@[simp] theorem State.afterPoll_arg (s : State) : s.afterPoll.arg = s.arg := rfl
@[simp] theorem State.afterPoll_sel (s : State) : s.afterPoll.sel = s.sel := rfl
@[simp] theorem State.afterPoll_status (s : State) : s.afterPoll.status = s.status := rfl
@[simp] theorem State.afterPoll_err (s : State) : s.afterPoll.err = s.err := rfl
@[simp] theorem State.afterPoll_f (s : State) : s.afterPoll.f = s.f := rfl
@[simp] theorem State.afterPoll_ci (s : State) : s.afterPoll.ci = s.ci := rfl
@[simp] theorem State.afterPoll_info (s : State) : s.afterPoll.info = s.info := rfl
@[simp] theorem State.afterPoll_infoLen (s : State) : s.afterPoll.infoLen = s.infoLen := rfl
@[simp] theorem State.afterPoll_phase (s : State) : s.afterPoll.phase = s.phase := rfl
@[simp] theorem State.afterPoll_issued (s : State) : s.afterPoll.issued = s.issued := rfl
@[simp] theorem State.afterPoll_txp (s : State) : s.afterPoll.txp = s.txp := rfl
@[simp] theorem State.afterPoll_txpLen (s : State) : s.afterPoll.txpLen = s.txpLen := rfl
@[simp] theorem State.afterPoll_rxs (s : State) : s.afterPoll.rxs = s.rxs := rfl
@[simp] theorem State.afterPoll_rxCnt (s : State) : s.afterPoll.rxCnt = s.rxCnt := rfl
@[simp] theorem State.afterPoll_delims (s : State) : s.afterPoll.delims = s.delims := rfl
@[simp] theorem State.afterPoll_rxp (s : State) : s.afterPoll.rxp = s.rxp := rfl
@[simp] theorem State.afterPoll_rxpLen (s : State) : s.afterPoll.rxpLen = s.rxpLen := rfl
@[simp] theorem State.afterPoll_acc (s : State) : s.afterPoll.acc = s.acc := rfl
@[simp] theorem State.afterPoll_stream (s : State) : s.afterPoll.stream = s.stream := rfl
@[simp] theorem State.afterPoll_host (s : State) : s.afterPoll.host = s.host := rfl
@[simp] theorem State.afterPoll_hostRd (s : State) : s.afterPoll.hostRd = s.hostRd := rfl
@[simp] theorem State.afterPoll_txIn (s : State) : s.afterPoll.txIn = s.txIn := rfl
@[simp] theorem State.afterPoll_rxIn (s : State) : s.afterPoll.rxIn = s.rxIn.tail := rfl
@[simp] theorem State.afterPoll_writes (s : State) : s.afterPoll.writes = s.writes := rfl
@[simp] theorem State.afterPoll_polls (s : State) : s.afterPoll.polls = s.polls + 1 := rfl
@[simp] theorem State.afterPoll_taken (s : State) : s.afterPoll.taken = (
    match s.rxNext with
      | .byte _ => s.taken + 1
      | .wouldBlock => s.taken
      | .fail => s.taken) := rfl
@[simp] theorem State.afterPoll_wire (s : State) : s.afterPoll.wire = s.wire := rfl
@[simp] theorem State.afterPoll_draws (s : State) : s.afterPoll.draws = s.draws := rfl
@[simp] theorem State.afterPoll_hostFaults (s : State) : s.afterPoll.hostFaults = s.hostFaults := rfl

/-! ## `State.abandon` -/

@[simp] theorem State.abandon_params (s : State) : s.abandon.params = s.params := by
  unfold State.abandon; split <;> rfl
@[simp] theorem State.abandon_op (s : State) : s.abandon.op = s.op := by
  unfold State.abandon; split <;> rfl
@[simp] theorem State.abandon_arg (s : State) : s.abandon.arg = s.arg := by
  unfold State.abandon; split <;> rfl
@[simp] theorem State.abandon_sel (s : State) : s.abandon.sel = s.sel := by
  unfold State.abandon; split <;> rfl
@[simp] theorem State.abandon_status (s : State) : s.abandon.status = s.status := by
  unfold State.abandon; split <;> rfl
@[simp] theorem State.abandon_err (s : State) : s.abandon.err = s.err := by
  unfold State.abandon; split <;> rfl
@[simp] theorem State.abandon_f (s : State) : s.abandon.f = s.f := by
  unfold State.abandon; split <;> rfl
@[simp] theorem State.abandon_ci (s : State) : s.abandon.ci = s.ci := by
  unfold State.abandon; split <;> rfl
@[simp] theorem State.abandon_info (s : State) : s.abandon.info = s.info := by
  unfold State.abandon; split <;> rfl
@[simp] theorem State.abandon_infoLen (s : State) : s.abandon.infoLen = s.infoLen := by
  unfold State.abandon; split <;> rfl
@[simp] theorem State.abandon_phase (s : State) : s.abandon.phase = s.phase := by
  unfold State.abandon; split <;> rfl
@[simp] theorem State.abandon_issued (s : State) : s.abandon.issued = s.issued := by
  unfold State.abandon; split <;> rfl
@[simp] theorem State.abandon_txp (s : State) : s.abandon.txp = s.txp := by
  unfold State.abandon; split <;> rfl
@[simp] theorem State.abandon_txpLen (s : State) : s.abandon.txpLen = s.txpLen := by
  unfold State.abandon; split <;> rfl
@[simp] theorem State.abandon_rxs (s : State) : s.abandon.rxs = s.rxs := by
  unfold State.abandon; split <;> rfl
@[simp] theorem State.abandon_rxCnt (s : State) : s.abandon.rxCnt = s.rxCnt := by
  unfold State.abandon; split <;> rfl
@[simp] theorem State.abandon_delims (s : State) : s.abandon.delims = s.delims := by
  unfold State.abandon; split <;> rfl
@[simp] theorem State.abandon_rxp (s : State) : s.abandon.rxp = s.rxp := by
  unfold State.abandon; split <;> rfl
@[simp] theorem State.abandon_rxpLen (s : State) : s.abandon.rxpLen = s.rxpLen := by
  unfold State.abandon; split <;> rfl
@[simp] theorem State.abandon_acc (s : State) : s.abandon.acc = s.acc := by
  unfold State.abandon; split <;> rfl
@[simp] theorem State.abandon_stream (s : State) : s.abandon.stream = s.stream := by
  unfold State.abandon; split <;> rfl
@[simp] theorem State.abandon_host (s : State) : s.abandon.host = s.host := by
  unfold State.abandon; split <;> rfl
@[simp] theorem State.abandon_hostRd (s : State) : s.abandon.hostRd = s.hostRd := by
  unfold State.abandon; split <;> rfl
@[simp] theorem State.abandon_rxIn (s : State) : s.abandon.rxIn = s.rxIn := by
  unfold State.abandon; split <;> rfl
@[simp] theorem State.abandon_polls (s : State) : s.abandon.polls = s.polls := by
  unfold State.abandon; split <;> rfl
@[simp] theorem State.abandon_taken (s : State) : s.abandon.taken = s.taken := by
  unfold State.abandon; split <;> rfl
@[simp] theorem State.abandon_draws (s : State) : s.abandon.draws = s.draws := by
  unfold State.abandon; split <;> rfl
@[simp] theorem State.abandon_hostFaults (s : State) : s.abandon.hostFaults = s.hostFaults := by
  unfold State.abandon; split <;> rfl

/-- In `P_SEND` the abandoned step is the call under way. -/
theorem State.abandon_send {s : State} (h : s.phase = .send) : s.abandon = s.afterWrite s.stream := if_pos h

/-- In every other phase there is nothing under way. -/
theorem State.abandon_other {s : State} (h : s.phase ≠ .send) : s.abandon = s := if_neg h

/-- What the transport has accepted of a stream is a prefix of it. -/
theorem accepted_take (a : TxAnswer) (x : Bytes) : ∃ k, accepted a x = x.take k := by
  cases a with
  | ok => exact ⟨x.length, (List.take_length).symm⟩
  | fail n => exact ⟨n, rfl⟩

/-! ## `State.present` -/

@[simp] theorem State.present_params (s : State) (i : Instr) : (s.present i).params = s.params := by cases i <;> rfl
@[simp] theorem State.present_status (s : State) (i : Instr) : (s.present i).status = s.status := by cases i <;> rfl
@[simp] theorem State.present_err (s : State) (i : Instr) : (s.present i).err = s.err := by cases i <;> rfl
@[simp] theorem State.present_f (s : State) (i : Instr) : (s.present i).f = s.f := by cases i <;> rfl
@[simp] theorem State.present_ci (s : State) (i : Instr) : (s.present i).ci = s.ci := by cases i <;> rfl
@[simp] theorem State.present_info (s : State) (i : Instr) : (s.present i).info = s.info := by cases i <;> rfl
@[simp] theorem State.present_infoLen (s : State) (i : Instr) : (s.present i).infoLen = s.infoLen := by cases i <;> rfl
@[simp] theorem State.present_phase (s : State) (i : Instr) : (s.present i).phase = s.phase := by cases i <;> rfl
@[simp] theorem State.present_issued (s : State) (i : Instr) : (s.present i).issued = s.issued := by cases i <;> rfl
@[simp] theorem State.present_txp (s : State) (i : Instr) : (s.present i).txp = s.txp := by cases i <;> rfl
@[simp] theorem State.present_txpLen (s : State) (i : Instr) : (s.present i).txpLen = s.txpLen := by cases i <;> rfl
@[simp] theorem State.present_rxs (s : State) (i : Instr) : (s.present i).rxs = s.rxs := by cases i <;> rfl
@[simp] theorem State.present_rxCnt (s : State) (i : Instr) : (s.present i).rxCnt = s.rxCnt := by cases i <;> rfl
@[simp] theorem State.present_delims (s : State) (i : Instr) : (s.present i).delims = s.delims := by cases i <;> rfl
@[simp] theorem State.present_rxp (s : State) (i : Instr) : (s.present i).rxp = s.rxp := by cases i <;> rfl
@[simp] theorem State.present_rxpLen (s : State) (i : Instr) : (s.present i).rxpLen = s.rxpLen := by cases i <;> rfl
@[simp] theorem State.present_acc (s : State) (i : Instr) : (s.present i).acc = s.acc := by cases i <;> rfl
@[simp] theorem State.present_stream (s : State) (i : Instr) : (s.present i).stream = s.stream := by cases i <;> rfl
@[simp] theorem State.present_host (s : State) (i : Instr) : (s.present i).host = s.host := by cases i <;> rfl
@[simp] theorem State.present_hostRd (s : State) (i : Instr) : (s.present i).hostRd = s.hostRd := by cases i <;> rfl
@[simp] theorem State.present_txIn (s : State) (i : Instr) : (s.present i).txIn = s.txIn := by cases i <;> rfl
@[simp] theorem State.present_rxIn (s : State) (i : Instr) : (s.present i).rxIn = s.rxIn := by cases i <;> rfl
@[simp] theorem State.present_writes (s : State) (i : Instr) : (s.present i).writes = s.writes := by cases i <;> rfl
@[simp] theorem State.present_polls (s : State) (i : Instr) : (s.present i).polls = s.polls := by cases i <;> rfl
@[simp] theorem State.present_taken (s : State) (i : Instr) : (s.present i).taken = s.taken := by cases i <;> rfl
@[simp] theorem State.present_wire (s : State) (i : Instr) : (s.present i).wire = s.wire := by cases i <;> rfl
@[simp] theorem State.present_draws (s : State) (i : Instr) : (s.present i).draws = s.draws := by cases i <;> rfl
@[simp] theorem State.present_hostFaults (s : State) (i : Instr) : (s.present i).hostFaults = s.hostFaults := by cases i <;> rfl

/-! ## `State.drawOperands` -/

@[simp] theorem State.drawOperands_params (s : State) : s.drawOperands.params = s.params :=
  State.present_params s s.sampled
@[simp] theorem State.drawOperands_status (s : State) : s.drawOperands.status = s.status :=
  State.present_status s s.sampled
@[simp] theorem State.drawOperands_err (s : State) : s.drawOperands.err = s.err :=
  State.present_err s s.sampled
@[simp] theorem State.drawOperands_f (s : State) : s.drawOperands.f = s.f :=
  State.present_f s s.sampled
@[simp] theorem State.drawOperands_ci (s : State) : s.drawOperands.ci = s.ci :=
  State.present_ci s s.sampled
@[simp] theorem State.drawOperands_info (s : State) : s.drawOperands.info = s.info :=
  State.present_info s s.sampled
@[simp] theorem State.drawOperands_infoLen (s : State) : s.drawOperands.infoLen = s.infoLen :=
  State.present_infoLen s s.sampled
@[simp] theorem State.drawOperands_phase (s : State) : s.drawOperands.phase = s.phase :=
  State.present_phase s s.sampled
@[simp] theorem State.drawOperands_issued (s : State) : s.drawOperands.issued = s.issued :=
  State.present_issued s s.sampled
@[simp] theorem State.drawOperands_txp (s : State) : s.drawOperands.txp = s.txp :=
  State.present_txp s s.sampled
@[simp] theorem State.drawOperands_txpLen (s : State) : s.drawOperands.txpLen = s.txpLen :=
  State.present_txpLen s s.sampled
@[simp] theorem State.drawOperands_rxs (s : State) : s.drawOperands.rxs = s.rxs :=
  State.present_rxs s s.sampled
@[simp] theorem State.drawOperands_rxCnt (s : State) : s.drawOperands.rxCnt = s.rxCnt :=
  State.present_rxCnt s s.sampled
@[simp] theorem State.drawOperands_delims (s : State) : s.drawOperands.delims = s.delims :=
  State.present_delims s s.sampled
@[simp] theorem State.drawOperands_rxp (s : State) : s.drawOperands.rxp = s.rxp :=
  State.present_rxp s s.sampled
@[simp] theorem State.drawOperands_rxpLen (s : State) : s.drawOperands.rxpLen = s.rxpLen :=
  State.present_rxpLen s s.sampled
@[simp] theorem State.drawOperands_acc (s : State) : s.drawOperands.acc = s.acc :=
  State.present_acc s s.sampled
@[simp] theorem State.drawOperands_stream (s : State) : s.drawOperands.stream = s.stream :=
  State.present_stream s s.sampled
@[simp] theorem State.drawOperands_host (s : State) : s.drawOperands.host = s.host :=
  State.present_host s s.sampled
@[simp] theorem State.drawOperands_hostRd (s : State) : s.drawOperands.hostRd = s.hostRd :=
  State.present_hostRd s s.sampled
@[simp] theorem State.drawOperands_txIn (s : State) : s.drawOperands.txIn = s.txIn :=
  State.present_txIn s s.sampled
@[simp] theorem State.drawOperands_rxIn (s : State) : s.drawOperands.rxIn = s.rxIn :=
  State.present_rxIn s s.sampled
@[simp] theorem State.drawOperands_writes (s : State) : s.drawOperands.writes = s.writes :=
  State.present_writes s s.sampled
@[simp] theorem State.drawOperands_polls (s : State) : s.drawOperands.polls = s.polls :=
  State.present_polls s s.sampled
@[simp] theorem State.drawOperands_taken (s : State) : s.drawOperands.taken = s.taken :=
  State.present_taken s s.sampled
@[simp] theorem State.drawOperands_wire (s : State) : s.drawOperands.wire = s.wire :=
  State.present_wire s s.sampled
@[simp] theorem State.drawOperands_draws (s : State) : s.drawOperands.draws = s.draws + 1 := rfl
@[simp] theorem State.drawOperands_hostFaults (s : State) : s.drawOperands.hostFaults = s.hostFaults :=
  State.present_hostFaults s s.sampled

/-! ## `State.setMem` -/

@[simp] theorem State.setMem_params (s : State) (sp : Space) (m : Memory) : (s.setMem sp m).params = s.params := by
  cases sp <;> rfl
@[simp] theorem State.setMem_op (s : State) (sp : Space) (m : Memory) : (s.setMem sp m).op = s.op := by
  cases sp <;> rfl
@[simp] theorem State.setMem_arg (s : State) (sp : Space) (m : Memory) : (s.setMem sp m).arg = s.arg := by
  cases sp <;> rfl
@[simp] theorem State.setMem_sel (s : State) (sp : Space) (m : Memory) : (s.setMem sp m).sel = s.sel := by
  cases sp <;> rfl
@[simp] theorem State.setMem_status (s : State) (sp : Space) (m : Memory) : (s.setMem sp m).status = s.status := by
  cases sp <;> rfl
@[simp] theorem State.setMem_err (s : State) (sp : Space) (m : Memory) : (s.setMem sp m).err = s.err := by
  cases sp <;> rfl
@[simp] theorem State.setMem_f (s : State) (sp : Space) (m : Memory) : (s.setMem sp m).f = s.f := by
  cases sp <;> rfl
@[simp] theorem State.setMem_ci (s : State) (sp : Space) (m : Memory) : (s.setMem sp m).ci = s.ci := by
  cases sp <;> rfl
@[simp] theorem State.setMem_info (s : State) (sp : Space) (m : Memory) : (s.setMem sp m).info = s.info := by
  cases sp <;> rfl
@[simp] theorem State.setMem_infoLen (s : State) (sp : Space) (m : Memory) : (s.setMem sp m).infoLen = s.infoLen := by
  cases sp <;> rfl
@[simp] theorem State.setMem_phase (s : State) (sp : Space) (m : Memory) : (s.setMem sp m).phase = s.phase := by
  cases sp <;> rfl
@[simp] theorem State.setMem_issued (s : State) (sp : Space) (m : Memory) : (s.setMem sp m).issued = s.issued := by
  cases sp <;> rfl
@[simp] theorem State.setMem_txpLen (s : State) (sp : Space) (m : Memory) : (s.setMem sp m).txpLen = s.txpLen := by
  cases sp <;> rfl
@[simp] theorem State.setMem_rxCnt (s : State) (sp : Space) (m : Memory) : (s.setMem sp m).rxCnt = s.rxCnt := by
  cases sp <;> rfl
@[simp] theorem State.setMem_delims (s : State) (sp : Space) (m : Memory) : (s.setMem sp m).delims = s.delims := by
  cases sp <;> rfl
@[simp] theorem State.setMem_rxpLen (s : State) (sp : Space) (m : Memory) : (s.setMem sp m).rxpLen = s.rxpLen := by
  cases sp <;> rfl
@[simp] theorem State.setMem_acc (s : State) (sp : Space) (m : Memory) : (s.setMem sp m).acc = s.acc := by
  cases sp <;> rfl
@[simp] theorem State.setMem_stream (s : State) (sp : Space) (m : Memory) : (s.setMem sp m).stream = s.stream := by
  cases sp <;> rfl
@[simp] theorem State.setMem_host (s : State) (sp : Space) (m : Memory) : (s.setMem sp m).host = s.host := by
  cases sp <;> rfl
@[simp] theorem State.setMem_hostRd (s : State) (sp : Space) (m : Memory) : (s.setMem sp m).hostRd = s.hostRd := by
  cases sp <;> rfl
@[simp] theorem State.setMem_txIn (s : State) (sp : Space) (m : Memory) : (s.setMem sp m).txIn = s.txIn := by
  cases sp <;> rfl
@[simp] theorem State.setMem_rxIn (s : State) (sp : Space) (m : Memory) : (s.setMem sp m).rxIn = s.rxIn := by
  cases sp <;> rfl
@[simp] theorem State.setMem_writes (s : State) (sp : Space) (m : Memory) : (s.setMem sp m).writes = s.writes := by
  cases sp <;> rfl
@[simp] theorem State.setMem_polls (s : State) (sp : Space) (m : Memory) : (s.setMem sp m).polls = s.polls := by
  cases sp <;> rfl
@[simp] theorem State.setMem_taken (s : State) (sp : Space) (m : Memory) : (s.setMem sp m).taken = s.taken := by
  cases sp <;> rfl
@[simp] theorem State.setMem_wire (s : State) (sp : Space) (m : Memory) : (s.setMem sp m).wire = s.wire := by
  cases sp <;> rfl
@[simp] theorem State.setMem_draws (s : State) (sp : Space) (m : Memory) : (s.setMem sp m).draws = s.draws := by
  cases sp <;> rfl
@[simp] theorem State.setMem_hostFaults (s : State) (sp : Space) (m : Memory) : (s.setMem sp m).hostFaults = s.hostFaults := by
  cases sp <;> rfl
@[simp] theorem State.setMem_txp_txp (s : State) (m : Memory) :
    (s.setMem .txp m).txp = m := rfl
@[simp] theorem State.setMem_txp_rxs (s : State) (m : Memory) :
    (s.setMem .txp m).rxs = s.rxs := rfl
@[simp] theorem State.setMem_txp_rxp (s : State) (m : Memory) :
    (s.setMem .txp m).rxp = s.rxp := rfl
@[simp] theorem State.setMem_rxs_txp (s : State) (m : Memory) :
    (s.setMem .rxs m).txp = s.txp := rfl
@[simp] theorem State.setMem_rxs_rxs (s : State) (m : Memory) :
    (s.setMem .rxs m).rxs = m := rfl
@[simp] theorem State.setMem_rxs_rxp (s : State) (m : Memory) :
    (s.setMem .rxs m).rxp = s.rxp := rfl
@[simp] theorem State.setMem_rxp_txp (s : State) (m : Memory) :
    (s.setMem .rxp m).txp = s.txp := rfl
@[simp] theorem State.setMem_rxp_rxs (s : State) (m : Memory) :
    (s.setMem .rxp m).rxs = s.rxs := rfl
@[simp] theorem State.setMem_rxp_rxp (s : State) (m : Memory) :
    (s.setMem .rxp m).rxp = m := rfl

end Sys2Proof.Machine
end

