-- ==== Sys2Proof/Laws/Memory.lean ====
section
/-! SUPPORT. The laws of buffers: a read after a write, the bytes a write leaves alone, and the canonical form,
which every write keeps. -/

namespace Sys2Proof.Machine

/-! ## One byte -/

@[simp] theorem Memory.read_nil (a : Nat) : Memory.read [] a = none := rfl

theorem Memory.read_write_same (m : Memory) (a : Nat) (v : Byte) : (m.write a v).read a = some v := by
  induction m with
  | nil => simp [Memory.write, Memory.read]
  | cons c t ih =>
    obtain ⟨b, w⟩ := c
    simp only [Memory.write]
    split
    · simp [Memory.read]
    · split
      · simp [Memory.read]
      · rename_i h1 h2
        simp [Memory.read, Ne.symm h2, ih]

theorem Memory.read_write_other (m : Memory) (a b : Nat) (v : Byte) (h : b ≠ a) :
    (m.write a v).read b = m.read b := by
  induction m with
  | nil => simp [Memory.write, Memory.read, Ne.symm h]
  | cons c t ih =>
    obtain ⟨d, w⟩ := c
    simp only [Memory.write]
    split
    · simp [Memory.read, Ne.symm h]
    · split
      · rename_i h1 h2
        subst h2
        simp [Memory.read, Ne.symm h]
      · simp [Memory.read, ih]

theorem Memory.mem_write {m : Memory} {a : Nat} {v : Byte} {c : Host.Cell} (h : c ∈ m.write a v) :
    c = (a, v) ∨ c ∈ m := by
  induction m with
  | nil => simpa [Memory.write] using h
  | cons d t ih =>
    obtain ⟨b, w⟩ := d
    simp only [Memory.write] at h
    split at h
    · simpa using h
    · split at h
      · rcases List.mem_cons.1 h with h | h
        · exact .inl h
        · exact .inr (List.mem_cons_of_mem _ h)
      · rcases List.mem_cons.1 h with h | h
        · exact .inr (h ▸ List.mem_cons_self)
        · exact (ih h).imp id (List.mem_cons_of_mem _)

theorem Memory.write_wf {m : Memory} (a : Nat) (v : Byte) (h : m.wf) : (m.write a v).wf := by
  induction m with
  | nil => simp [Memory.write, Memory.wf]
  | cons d t ih =>
    obtain ⟨b, w⟩ := d
    obtain ⟨hb, ht⟩ := List.pairwise_cons.1 h
    simp only [Memory.write]
    split
    · rename_i hab
      refine List.pairwise_cons.2 ⟨fun c hc => ?_, h⟩
      rcases List.mem_cons.1 hc with rfl | hc
      · exact hab
      · exact Nat.lt_trans hab (hb c hc)
    · split
      · rename_i h1 h2
        subst h2
        exact List.pairwise_cons.2 ⟨hb, ht⟩
      · rename_i h1 h2
        refine List.pairwise_cons.2 ⟨fun c hc => ?_, ih ht⟩
        rcases Memory.mem_write hc with rfl | hc
        · show b < a
          omega
        · exact hb c hc

/-! ## Consecutive bytes -/

theorem Memory.writeBytes_wf {m : Memory} (a : Nat) (bs : Bytes) (h : m.wf) : (m.writeBytes a bs).wf := by
  induction bs generalizing m a with
  | nil => exact h
  | cons v vs ih => exact ih (a + 1) (Memory.write_wf a v h)

theorem Memory.read_writeBytes_before (m : Memory) (a b : Nat) (bs : Bytes) (h : b < a) :
    (m.writeBytes a bs).read b = m.read b := by
  induction bs generalizing m a with
  | nil => rfl
  | cons v vs ih =>
    rw [Memory.writeBytes, ih _ _ (by omega), Memory.read_write_other _ _ _ _ (by omega)]

theorem Memory.read_writeBytes_after (m : Memory) (a b : Nat) (bs : Bytes) (h : a + bs.length ≤ b) :
    (m.writeBytes a bs).read b = m.read b := by
  induction bs generalizing m a with
  | nil => rfl
  | cons v vs ih =>
    simp only [List.length_cons] at h
    rw [Memory.writeBytes, ih _ _ (by omega), Memory.read_write_other _ _ _ _ (by omega)]

theorem Memory.readBytes_writeBytes (m : Memory) (a : Nat) (bs : Bytes) :
    (m.writeBytes a bs).readBytes a bs.length = some bs := by
  induction bs generalizing m a with
  | nil => rfl
  | cons v vs ih =>
    simp only [List.length_cons, Memory.readBytes, Memory.writeBytes]
    rw [Memory.read_writeBytes_before _ _ _ _ (by omega), Memory.read_write_same, ih]

theorem Memory.mem_writeBytes {m : Memory} {a : Nat} {bs : Bytes} {c : Host.Cell}
    (h : c ∈ m.writeBytes a bs) : c ∈ m ∨ a ≤ c.1 ∧ c.1 < a + bs.length := by
  induction bs generalizing m a with
  | nil => exact .inl h
  | cons v vs ih =>
    simp only [List.length_cons]
    rcases ih h with h | ⟨h1, h2⟩
    · rcases Memory.mem_write h with rfl | h
      · exact .inr ⟨Nat.le_refl _, by show a < _; omega⟩
      · exact .inl h
    · exact .inr ⟨by omega, by omega⟩

/-- What `n + 1` bytes read as: the first `n`, then the last. -/
theorem Memory.readBytes_succ (m : Memory) (a n : Nat) :
    m.readBytes a (n + 1) =
      match m.readBytes a n, m.read (a + n) with
      | some vs, some v => some (vs ++ [v])
      | _, _ => none := by
  induction n generalizing a with
  | zero => simp only [Memory.readBytes]; cases m.read a <;> simp
  | succ n ih =>
    rw [Memory.readBytes, ih]
    rw [show a + 1 + n = a + (n + 1) by omega]
    conv_rhs => rw [Memory.readBytes]
    cases m.read a <;> cases m.readBytes (a + 1) n <;> cases m.read (a + (n + 1)) <;> simp

/-- Bytes read are the same in memories that agree on them. -/
theorem Memory.readBytes_congr {m m' : Memory} {a n : Nat}
    (h : ∀ b, a ≤ b → b < a + n → m'.read b = m.read b) : m'.readBytes a n = m.readBytes a n := by
  induction n generalizing a with
  | zero => rfl
  | succ n ih =>
    rw [Memory.readBytes, Memory.readBytes, h a (by omega) (by omega),
      ih fun b h1 h2 => h b (by omega) (by omega)]

theorem Memory.length_readBytes {m : Memory} {a n : Nat} {bs : Bytes} (h : m.readBytes a n = some bs) :
    bs.length = n := by
  induction n generalizing a bs with
  | zero => simp_all [Memory.readBytes]
  | succ n ih =>
    rw [Memory.readBytes] at h
    split at h
    · rename_i v vs _ hvs
      cases h
      simp [ih hvs]
    · cases h

/-- One byte appended after `n` bytes already held. -/
theorem Memory.readBytes_write_end {m : Memory} {n : Nat} {bs : Bytes} (v : Byte)
    (h : m.readBytes 0 n = some bs) : (m.write n v).readBytes 0 (n + 1) = some (bs ++ [v]) := by
  rw [Memory.readBytes_succ, Memory.readBytes_congr (m := m) fun b _ hb =>
    Memory.read_write_other m n b v (by omega), h]
  simp [Memory.read_write_same]

/-- A big-endian 4-byte write reads back (R52). -/
theorem Memory.read32_write32 (m : Memory) (a : Nat) (v : Word) : (m.write32 a v).read32 a = some v := by
  have h := Memory.readBytes_writeBytes m a (be32Enc v)
  simp only [Memory.read32, Memory.write32]
  rw [show (4 : Nat) = (be32Enc v).length from rfl, h]
  simp only [be32Enc, be32Dec, Option.some.injEq]
  ext k hk
  simp only [BitVec.getElem_append, BitVec.getElem_extractLsb']
  repeat' split
  all_goals rw [BitVec.getElem_eq_testBit_toNat, BitVec.getLsbD]; congr 1; omega

/-! ## The checked store -/

/-- All that a store can do. -/
theorem State.store_eq_some {s t : State} {sp : Space} {a : Nat} {bs : Bytes} (h : s.store sp a bs = some t) :
    inSpace sp a bs.length = true ∧ t = s.setMem sp ((s.mem sp).writeBytes a bs) := by
  unfold State.store at h
  split at h
  · cases h
    exact ⟨‹_›, rfl⟩
  · cases h

theorem State.store_of_inSpace {s : State} {sp : Space} {a : Nat} {bs : Bytes}
    (h : inSpace sp a bs.length = true) :
    s.store sp a bs = some (s.setMem sp ((s.mem sp).writeBytes a bs)) := by
  simp [State.store, h]

@[simp] theorem inSpace_txp (a n : Nat) : inSpace .txp a n = decide (a + n ≤ Config.txBuf) := rfl
@[simp] theorem inSpace_rxs (a n : Nat) : inSpace .rxs a n = decide (a + n ≤ Config.rxBuf) := rfl
@[simp] theorem inSpace_rxp (a n : Nat) : inSpace .rxp a n = true := rfl
@[simp] theorem State.mem_txp (s : State) : s.mem .txp = s.txp := rfl
@[simp] theorem State.mem_rxs (s : State) : s.mem .rxs = s.rxs := rfl
@[simp] theorem State.mem_rxp (s : State) : s.mem .rxp = s.rxp := rfl

/-- After storing a request at index 0 with its length recorded, it is what `TXP` holds. -/
theorem request_of_writeBytes {s : State} {m : Memory} {bs : Bytes} (h : s.txp = m.writeBytes 0 bs)
    (hl : s.txpLen = bs.length) : s.request = some bs := by
  rw [State.request, h, hl, Memory.readBytes_writeBytes]

theorem payload_of_writeBytes {s : State} {m : Memory} {bs : Bytes} (h : s.rxp = m.writeBytes 0 bs)
    (hl : s.rxpLen = bs.length) : s.payload = some bs := by
  rw [State.payload, h, hl, Memory.readBytes_writeBytes]

/-! ## The three buffers depend on their own registers only -/

theorem State.request_congr {s t : State} (h : t.txp = s.txp) (hl : t.txpLen = s.txpLen) :
    t.request = s.request := by rw [State.request, State.request, h, hl]

theorem State.captured_congr {s t : State} (h : t.rxs = s.rxs) (hl : t.rxCnt = s.rxCnt) :
    t.captured = s.captured := by rw [State.captured, State.captured, h, hl]

theorem State.payload_congr {s t : State} (h : t.rxp = s.rxp) (hl : t.rxpLen = s.rxpLen) :
    t.payload = s.payload := by rw [State.payload, State.payload, h, hl]

end Sys2Proof.Machine
end

