-- ==== Sys2Proof/Laws/Phases.lean ====
section
/-! SUPPORT. Everything each phase action can do: one lemma per action, to cite instead of unfolding it. -/

namespace Sys2Proof.Machine

/-- Presenting an operation makes it the one the operand registers hold. -/
theorem State.presented_present (s : State) {i : Instr} (h : i.isRequest = true) :
    (s.present i).presented = some i := by
  cases i <;> first | rfl | cases h

/-- What the operand registers present is a request row, of the operation `OP` holds. -/
theorem State.presented_spec {s : State} {i : Instr} (h : s.presented = some i) :
    i.isRequest = true ∧ s.op = some i.opOf := by
  unfold State.presented at h
  split at h <;> first
    | (cases h; done)
    | (cases h; exact ⟨rfl, ‹_›⟩)
    | (obtain ⟨x, hx, rfl⟩ := Option.map_eq_some_iff.1 h; exact ⟨rfl, ‹_›⟩)

/-- What *start* samples is always an operation. -/
theorem State.sampled_isRequest (s : State) : s.sampled.isRequest = true := by
  unfold State.sampled
  split <;> rfl

/-- Whatever operation `OP` holds is the one sampled. -/
theorem State.sampled_opOf {s : State} {o : Op} (h : s.op = some o) : s.sampled.opOf = o := by
  unfold State.sampled
  rw [h]
  cases o <;> rfl

/-- Where every operand register needed holds a value, what is sampled is what is presented. -/
theorem State.sampled_presented {s : State} {i : Instr} (h : s.presented = some i) : s.sampled = i := by
  unfold State.presented at h
  unfold State.sampled
  split at h <;> simp_all
  all_goals
    obtain ⟨x, hx, rfl⟩ := h
    simp [hx]

theorem State.presented_congr {s t : State} (h1 : t.op = s.op) (h2 : t.arg = s.arg) (h3 : t.sel = s.sel) :
    t.presented = s.presented := by
  unfold State.presented
  rw [h1, h2, h3]

/-- After *start* has drawn what the host has not written, the operand registers present what it sampled. -/
theorem State.drawOperands_presented (s : State) : s.drawOperands.presented = some s.sampled :=
  (State.presented_congr (s := s.present s.sampled) rfl rfl rfl).trans
    (State.presented_present s (State.sampled_isRequest s))

/-- The meaning of a request row is the template of R180. -/
theorem exec_request {i : Instr} (h : i.isRequest = true) (s : State) : exec i s = operate i s := by
  cases i <;> first | rfl | cases h

/-- The meaning of a response row is the response phases on its payload. -/
theorem exec_response {i : Instr} (h : i.isRequest = false) (s : State) :
    exec i s = receive (encode s.params i) s := by
  cases i <;> first | rfl | cases h

theorem startStep_next {i : Instr} {s t : State} (h : startStep i s = .next t) :
    s.status ≠ .busy ∧ t = (s.present i).start := by
  unfold startStep at h
  split at h
  · cases h
  · cases h; exact ⟨‹_›, rfl⟩

theorem buildStep_next {i : Instr} {s t : State} (h : buildStep i s = .next t) :
    (requestData s.params i).length + 4 ≤ Config.txBuf ∧
    t = { s with
      txp := s.txp.writeBytes 0 (requestPayload (codeOf s.params i.opOf) (requestData s.params i))
      issued := some (codeOf s.params i.opOf)
      txpLen := (requestData s.params i).length + 4
      acc := sum8 (requestHead (codeOf s.params i.opOf) (requestData s.params i))
      phase := .encode } := by
  unfold buildStep at h
  simp only at h
  split at h
  · cases h
  · rename_i u hu
    obtain ⟨h1, rfl⟩ := State.store_eq_some hu
    cases h
    exact ⟨by simpa using h1, rfl⟩

/-- A request that fits `TXP` is built (R120). -/
theorem buildStep_eq {i : Instr} {s : State} (h : (requestData s.params i).length + 4 ≤ Config.txBuf) :
    buildStep i s = .next { s with
      txp := s.txp.writeBytes 0 (requestPayload (codeOf s.params i.opOf) (requestData s.params i))
      issued := some (codeOf s.params i.opOf)
      txpLen := (requestData s.params i).length + 4
      acc := sum8 (requestHead (codeOf s.params i.opOf) (requestData s.params i))
      phase := .encode } := by
  unfold buildStep
  simp only
  rw [State.store_of_inSpace (by simpa using h)]
  rfl

theorem encodeStep_next {s t : State} (h : encodeStep s = .next t) :
    ∃ bs, s.request = some bs ∧
      ((codecEncode s.params.codec bs = none ∧ t = s.raise .framingError) ∨
       ∃ stream, codecEncode s.params.codec bs = some stream ∧ t = { s with stream := stream, phase := .send }) := by
  unfold encodeStep at h
  split at h
  · cases h
  · rename_i bs hbs
    refine ⟨bs, hbs, ?_⟩
    split at h
    · cases h; exact .inl ⟨‹_›, rfl⟩
    · cases h; exact .inr ⟨_, ‹_›, rfl⟩

theorem sendStep_next {s t : State} (h : sendStep s = .next t) :
    (∃ n, s.txNext = .fail n ∧ t = (s.afterWrite s.stream).raise .writeError) ∨
    (s.txNext = .ok ∧ t = { s.afterWrite s.stream with rxCnt := 0, delims := 0, phase := .recv }) := by
  unfold sendStep at h
  split at h
  · cases h; exact .inl ⟨_, ‹_›, rfl⟩
  · cases h; exact .inr ⟨‹_›, rfl⟩

/-- The state after byte `b` has been kept and counted (R131). -/
def kept (b : Byte) (s : State) : State :=
  { s with rxs := s.rxs.writeBytes s.rxCnt [b], rxCnt := s.rxCnt + 1, delims := countDelim b s.delims }

theorem recvByte_next {b : Byte} {s t : State} (h : recvByte b s = .next t) :
    s.rxCnt + 1 ≤ Config.rxBuf ∧
    ((countDelim b s.delims = 2 ∧ t = { kept b s with phase := .decode }) ∨
     (countDelim b s.delims ≠ 2 ∧ s.rxCnt + 1 = Config.rxCap ∧ t = (kept b s).raise .invalidFrame) ∨
     (countDelim b s.delims ≠ 2 ∧ s.rxCnt + 1 ≠ Config.rxCap ∧ t = kept b s)) := by
  unfold recvByte at h
  split at h
  · cases h
  · rename_i u hu
    obtain ⟨h1, rfl⟩ := State.store_eq_some hu
    refine ⟨by simpa using h1, ?_⟩
    simp only at h
    split at h
    · cases h; exact .inl ⟨‹_›, rfl⟩
    · split at h
      · cases h; exact .inr (.inl ⟨‹_›, ‹_›, rfl⟩)
      · cases h; exact .inr (.inr ⟨‹_›, ‹_›, rfl⟩)

/-- A byte taken while `RXS` has room (R131). -/
theorem recvByte_eq {b : Byte} {s : State} (h : s.rxCnt + 1 ≤ Config.rxBuf) :
    recvByte b s = .next (
      if countDelim b s.delims = 2 then { kept b s with phase := .decode }
      else if s.rxCnt + 1 = Config.rxCap then (kept b s).raise .invalidFrame
      else kept b s) := by
  unfold recvByte
  rw [State.store_of_inSpace (by simpa using h)]
  simp only [kept]
  split
  · rfl
  · split <;> rfl

theorem recvStep_next {s t : State} (h : recvStep s = .next t) :
    (s.rxNext = .wouldBlock ∧ t = s.afterPoll) ∨
    (s.rxNext = .fail ∧ t = s.afterPoll.raise .readError) ∨
    (∃ b, s.rxNext = .byte b ∧ recvByte b s.afterPoll = .next t) := by
  unfold recvStep at h
  split at h
  · cases h; exact .inl ⟨‹_›, rfl⟩
  · cases h; exact .inr (.inl ⟨‹_›, rfl⟩)
  · exact .inr (.inr ⟨_, ‹_›, h⟩)

theorem decodeStep_next {s t : State} (h : decodeStep s = .next t) :
    ∃ bs, s.captured = some bs ∧
      ((codecDecode s.params.codec bs = none ∧ t = s.raise .framingError) ∨
       ∃ r, codecDecode s.params.codec bs = some r ∧
         t = { s with rxp := Memory.writeBytes [] 0 r, rxpLen := r.length, phase := .check }) := by
  unfold decodeStep at h
  split at h
  · cases h
  · rename_i bs hbs
    refine ⟨bs, hbs, ?_⟩
    split at h
    · cases h; exact .inl ⟨‹_›, rfl⟩
    · cases h; exact .inr ⟨_, ‹_›, rfl⟩

/-- The state after the checksum of a payload has been accumulated (R36, R139). -/
def summed (bs : Bytes) (s : State) : State := if bs = [] then s else { s with acc := sum8 bs.dropLast }

theorem checkStep_next {bs : Bytes} {s t : State} (h : checkStep bs s = .next t) :
    (checksumMatches bs = true ∧ t = { summed bs s with phase := .validate }) ∨
    (checksumMatches bs = false ∧ t = (summed bs s).raise .checksumFailed) := by
  unfold checkStep at h
  simp only at h
  split at h
  · cases h; exact .inl ⟨‹_›, rfl⟩
  · cases h; exact .inr ⟨Bool.eq_false_iff.2 ‹_›, rfl⟩

theorem validateStep_next {bs : Bytes} {s t : State} (h : validateStep bs s = .next t) :
    ∃ c, s.issued = some c ∧
      ((∃ k, validateKind c bs = some k ∧ t = s.raise k) ∨
       (validateKind c bs = none ∧ t = { s with phase := .extract })) := by
  unfold validateStep at h
  split at h
  · cases h
  · refine ⟨_, ‹_›, ?_⟩
    split at h
    · cases h; exact .inl ⟨_, ‹_›, rfl⟩
    · cases h; exact .inr ⟨‹_›, rfl⟩

/-- All that `Extract_OP` can do: raise one of three kinds, or end with success and this operation's result. -/
theorem extractStep_next {o : Op} {bs : Bytes} {s t : State} (h : extractStep o bs s = .next t) :
    (o = .readMeasurement ∧
      ((bs.length = 45 ∧ ∃ data, rspData bs 40 = some data ∧ t = { s.finish with f := some (f32Groups data) }) ∨
       (bs.length = 5 ∧ t = s.raise .emptyResult) ∨
       (bs.length ≠ 45 ∧ bs.length ≠ 5 ∧ t = s.raise .invalidFrame))) ∨
    (o = .readCleaningInterval ∧ ∃ l, rspLength bs = some l ∧
      ((l ≠ 4 ∧ t = s.raise .invalidResponse) ∨
       (l = 4 ∧ ∃ b0 b1 b2 b3, rspData bs 4 = some [b0, b1, b2, b3] ∧
         t = { s.finish with ci := some (be32Dec b0 b1 b2 b3) }))) ∨
    (o = .writeCleaningInterval ∧ ∃ l, rspLength bs = some l ∧
      ((l ≠ 0 ∧ t = s.raise .invalidResponse) ∨ (l = 0 ∧ t = s.finish))) ∨
    (o = .deviceInfo ∧ ∃ l, rspLength bs = some l ∧
      ((32 < l.toNat ∧ t = s.raise .emptyResult) ∨
       (l.toNat ≤ 32 ∧ ∃ data, rspData bs l.toNat = some data ∧
         t = { s.finish with
           info := some (data ++ List.replicate (32 - l.toNat) 0), infoLen := some l.toNat }))) ∨
    ((o = .startMeasurement ∨ o = .stopMeasurement ∨ o = .startFanCleaning ∨ o = .reset) ∧ t = s.finish) := by
  cases o <;> simp only [extractStep] at h
  case readMeasurement =>
    refine .inl ⟨rfl, ?_⟩
    unfold extractMeasurement at h
    split at h
    · split at h
      · cases h
      · cases h; exact .inl ⟨‹_›, _, ‹_›, rfl⟩
    · split at h
      · cases h; exact .inr (.inl ⟨‹_›, rfl⟩)
      · cases h; exact .inr (.inr ⟨‹_›, ‹_›, rfl⟩)
  case readCleaningInterval =>
    refine .inr (.inl ⟨rfl, ?_⟩)
    unfold extractInterval at h
    split at h
    · cases h
    · refine ⟨_, ‹_›, ?_⟩
      split at h
      · cases h; exact .inl ⟨‹_›, rfl⟩
      · rename_i hl
        split at h
        · cases h; exact .inr ⟨by simpa using hl, _, _, _, _, ‹_›, rfl⟩
        · cases h
  case writeCleaningInterval =>
    refine .inr (.inr (.inl ⟨rfl, ?_⟩))
    unfold extractWritten at h
    split at h
    · cases h
    · refine ⟨_, ‹_›, ?_⟩
      split at h
      · cases h; exact .inl ⟨‹_›, rfl⟩
      · cases h; exact .inr ⟨by simp_all, rfl⟩
  case deviceInfo =>
    refine .inr (.inr (.inr (.inl ⟨rfl, ?_⟩)))
    unfold extractInfo at h
    split at h
    · cases h
    · refine ⟨_, ‹_›, ?_⟩
      split at h
      · cases h; exact .inl ⟨‹_›, rfl⟩
      · split at h
        · cases h
        · cases h
          refine .inr ⟨?_, _, ‹_›, rfl⟩
          simpa [Config.infoCap] using ‹¬ Config.infoCap < _›
  all_goals
    cases h
    exact .inr (.inr (.inr (.inr ⟨by simp, rfl⟩)))

/-- A response is taken only in the three response phases. -/
theorem respond_next {o : Op} {bs : Bytes} {s t : State} (h : respond o bs s = .next t) :
    (s.phase = .check ∧ checkStep bs s = .next t) ∨
    (s.phase = .validate ∧ validateStep bs s = .next t) ∨
    (s.phase = .extract ∧ extractStep o bs s = .next t) := by
  unfold respond at h
  split at h <;> first
    | cases h
    | exact .inl ⟨‹_›, h⟩
    | exact .inr (.inl ⟨‹_›, h⟩)
    | exact .inr (.inr ⟨‹_›, h⟩)

theorem receive_next {bs : Bytes} {s t : State} (h : receive bs s = .next t) :
    ∃ o, s.op = some o ∧ respond o bs s = .next t := by
  unfold receive at h
  split at h
  · cases h
  · exact ⟨_, ‹_›, h⟩

theorem respondHeld_next {o : Op} {s t : State} (h : respondHeld o s = .next t) :
    ∃ bs, s.payload = some bs ∧ respond o bs s = .next t := by
  unfold respondHeld at h
  split at h
  · cases h
  · exact ⟨_, ‹_›, h⟩

/-- The phase action a request row's meaning takes. -/
theorem operate_next {i : Instr} {s t : State} (h : operate i s = .next t) :
    (s.phase = .idle ∧ startStep i s = .next t) ∨
    (s.phase = .build ∧ buildStep i s = .next t) ∨
    (s.phase = .encode ∧ encodeStep s = .next t) ∨
    (s.phase = .send ∧ sendStep s = .next t) ∨
    (s.phase = .recv ∧ recvStep s = .next t) ∨
    (s.phase = .decode ∧ decodeStep s = .next t) ∨
    ((s.phase = .check ∨ s.phase = .validate ∨ s.phase = .extract) ∧
      ∃ bs, s.payload = some bs ∧ respond i.opOf bs s = .next t) := by
  unfold operate at h
  split at h
  · exact .inl ⟨‹_›, h⟩
  · exact .inr (.inl ⟨‹_›, h⟩)
  · exact .inr (.inr (.inl ⟨‹_›, h⟩))
  · exact .inr (.inr (.inr (.inl ⟨‹_›, h⟩)))
  · exact .inr (.inr (.inr (.inr (.inl ⟨‹_›, h⟩))))
  · exact .inr (.inr (.inr (.inr (.inr (.inl ⟨‹_›, h⟩)))))
  · exact .inr (.inr (.inr (.inr (.inr (.inr ⟨.inl ‹_›, respondHeld_next h⟩)))))
  · exact .inr (.inr (.inr (.inr (.inr (.inr ⟨.inr (.inl ‹_›), respondHeld_next h⟩)))))
  · exact .inr (.inr (.inr (.inr (.inr (.inr ⟨.inr (.inr ‹_›), respondHeld_next h⟩)))))

/-- The validator's four checks with the spec's numbers written out (R150). -/
theorem validateKind_eq (c : Byte) (bs : Bytes) :
    validateKind c bs =
      if bs.length < 5 then some .invalidResponse
      else if bs[1]? ≠ some c then some .invalidResponse
      else if bs[2]? ≠ some 0x00 then some .statusError
      else if (bs[3]?).map BitVec.toNat ≠ some (bs.length - 5) then some .invalidResponse
      else none := rfl

/-! ## What the engine runs -/

/-- Up to `P_DECODE` the engine fetches the operation presented; in the response phases that operation, or a
response row of the operation in `OP` whose payload is the one in `RXP`. -/
theorem fetch_spec {s : State} {i : Instr} (h : fetch s = some i) :
    s.presented = some i ∨
    ((s.phase = .check ∨ s.phase = .validate ∨ s.phase = .extract) ∧
      ∃ o bs, s.op = some o ∧ s.payload = some bs ∧ decodeResponseFor s.params o bs = .ok i) := by
  have key : fetch.fetchResponse s = some i → s.presented = some i ∨
      ∃ o bs, s.op = some o ∧ s.payload = some bs ∧ decodeResponseFor s.params o bs = .ok i := by
    intro h
    unfold fetch.fetchResponse at h
    split at h
    · split at h
      · cases h; exact .inr ⟨_, _, ‹_›, ‹_›, ‹_›⟩
      · exact .inl h
    · exact .inl h
  unfold fetch at h
  split at h
  · cases h
  all_goals first
    | exact .inl h
    | exact (key h).imp id fun h => ⟨.inl ‹_›, h⟩
    | exact (key h).imp id fun h => ⟨.inr (.inl ‹_›), h⟩
    | exact (key h).imp id fun h => ⟨.inr (.inr ‹_›), h⟩

/-- While an operation is presented the engine always has something to run, outside `P_IDLE`. -/
theorem fetch_isSome {s : State} (h : s.presented.isSome) (hp : s.phase ≠ .idle) : (fetch s).isSome := by
  have key : (fetch.fetchResponse s).isSome := by
    unfold fetch.fetchResponse
    split
    · split
      · rfl
      · exact h
    · exact h
  unfold fetch
  split <;> first | exact absurd ‹_› hp | exact h | exact key

/-- Running what is fetched is the template's phase action for the operation presented, whichever of the two
kinds of row is fetched. -/
theorem engineStep_operate {s : State} {i : Instr} (hi : s.presented = some i) (hp : s.phase ≠ .idle) :
    engineStep s = operate i s := by
  obtain ⟨hr, hop⟩ := State.presented_spec hi
  obtain ⟨j, hj⟩ := Option.isSome_iff_exists.1 (fetch_isSome (s := s) (by rw [hi]; rfl) hp)
  have he : engineStep s = exec j s := by
    unfold engineStep
    split
    · exact absurd ‹_› hp
    · rw [hj]
  rw [he]
  rcases fetch_spec hj with h | ⟨hph, o, bs, ho, hbs, hd⟩
  · rw [hi] at h
    cases h
    exact exec_request hr s
  · obtain ⟨h1, h2, -, h4⟩ := decodeResponseFor_spec hd
    rw [hop] at ho
    cases ho
    rw [exec_response h1, h4, receive, hop]
    rcases hph with h | h | h <;> simp [operate, respondHeld, h, hbs]

/-- With the host making no move, a running engine's step is the template's phase action. -/
theorem step_operate {s : State} {i : Instr} (hh : s.host = []) (hi : s.presented = some i) (hp : s.phase ≠ .idle) :
    step s = operate i s := by
  rw [step, hh]
  exact engineStep_operate hi hp

/-- One step: a move of the host, or the engine's own. -/
theorem step_cases {s : State} {r : Result} (h : step s = r) :
    (s.host = [] ∧ engineStep s = r) ∨ ∃ m rest, s.host = m :: rest ∧ hostStep m { s with host := rest } = r := by
  unfold step at h
  split at h
  · exact .inl ⟨‹_›, h⟩
  · exact .inr ⟨_, _, ‹_›, h⟩

end Sys2Proof.Machine
end

