-- ==== Sys2Proof/Laws/Step.lean ====
section
/-! SUPPORT. Everything one step of the machine can do, said once: the engine's step by phase, and the host's
moves. -/

namespace Sys2Proof.Machine

/-- The engine's step: it waits in `P_IDLE`, and in every other phase runs what it fetches. -/
theorem engineStep_cases {s t : State} (h : engineStep s = .next t) :
    (s.phase = .idle ∧ t = s) ∨ (s.phase ≠ .idle ∧ ∃ i, fetch s = some i ∧ exec i s = .next t) := by
  unfold engineStep at h
  split at h
  · cases h; exact .inl ⟨‹_›, rfl⟩
  · split at h
    · cases h
    · refine .inr ⟨‹_›, _, ‹_›, h⟩

/-- The engine's step, phase by phase, from every state. -/
theorem engineStep_phase {s t : State} (h : engineStep s = .next t) :
    (s.phase = .idle ∧ t = s) ∨
    (s.phase = .build ∧ ∃ i, s.presented = some i ∧ buildStep i s = .next t) ∨
    (s.phase = .encode ∧ encodeStep s = .next t) ∨
    (s.phase = .send ∧ sendStep s = .next t) ∨
    (s.phase = .recv ∧ recvStep s = .next t) ∨
    (s.phase = .decode ∧ decodeStep s = .next t) ∨
    (∃ o bs, s.op = some o ∧ s.payload = some bs ∧
      ((s.phase = .check ∧ checkStep bs s = .next t) ∨
       (s.phase = .validate ∧ validateStep bs s = .next t) ∨
       (s.phase = .extract ∧ extractStep o bs s = .next t))) := by
  rcases engineStep_cases h with h | ⟨hp, i, hf, hx⟩
  · exact .inl h
  rcases fetch_spec hf with hpr | ⟨hph, o, bs, ho, hb, hd⟩
  · obtain ⟨hr, hop⟩ := State.presented_spec hpr
    rw [exec_request hr] at hx
    rcases operate_next hx with ⟨h1, _⟩ | ⟨h1, h2⟩ | ⟨h1, h2⟩ | ⟨h1, h2⟩ | ⟨h1, h2⟩ | ⟨h1, h2⟩ | ⟨h1, bs, hb, h2⟩
    · exact absurd h1 hp
    · exact .inr (.inl ⟨h1, i, hpr, h2⟩)
    · exact .inr (.inr (.inl ⟨h1, h2⟩))
    · exact .inr (.inr (.inr (.inl ⟨h1, h2⟩)))
    · exact .inr (.inr (.inr (.inr (.inl ⟨h1, h2⟩))))
    · exact .inr (.inr (.inr (.inr (.inr (.inl ⟨h1, h2⟩)))))
    · exact .inr (.inr (.inr (.inr (.inr (.inr ⟨_, bs, hop, hb, respond_next h2⟩)))))
  · obtain ⟨h1, h2, -, h4⟩ := decodeResponseFor_spec hd
    rw [exec_response h1, h4] at hx
    obtain ⟨o', ho', hx⟩ := receive_next hx
    exact .inr (.inr (.inr (.inr (.inr (.inr ⟨o', bs, ho', hb, respond_next hx⟩)))))

/-- The host's moves: the engine's own step, an operand write, *start* of an operation (the one presented, or one
with a free value for what the host has not written), a read, or the engine's reset. -/
theorem hostStep_cases {m : HostMove} {s t : State} (h : hostStep m s = .next t) :
    (m = .quiet ∧ engineStep s = .next t) ∨
    (s.status ≠ .busy ∧ ∃ o a x, t = { s with op := o, arg := a, sel := x }) ∨
    (m = .start ∧ s.status ≠ .busy ∧ ∃ u i, (u = s ∨ u = s.drawOperands) ∧ u.presented = some i ∧
      exec i u = .next t) ∨
    (∃ v n, t = { s with hostRd := v, hostFaults := n }) ∨ (m = .reset ∧ t = s.engineReset) := by
  cases m
  case quiet => exact .inl ⟨rfl, h⟩
  case writeOp o =>
    simp only [hostStep, hostWrite] at h; split at h
    · cases h
    · cases h; exact .inr (.inl ⟨‹_›, _, _, _, rfl⟩)
  case writeArg o =>
    simp only [hostStep, hostWrite] at h; split at h
    · cases h
    · cases h; exact .inr (.inl ⟨‹_›, _, _, _, rfl⟩)
  case writeSel o =>
    simp only [hostStep, hostWrite] at h; split at h
    · cases h
    · cases h; exact .inr (.inl ⟨‹_›, _, _, _, rfl⟩)
  case start =>
    simp only [hostStep, hostStart] at h; split at h
    · cases h
    · split at h
      · exact .inr (.inr (.inl ⟨rfl, ‹_›, _, _, .inr rfl, State.drawOperands_presented s, h⟩))
      · exact .inr (.inr (.inl ⟨rfl, ‹_›, _, _, .inl rfl, ‹_›, h⟩))
  case read r =>
    simp only [hostStep, hostRead] at h; split at h
    all_goals (cases h; exact .inr (.inr (.inr (.inl ⟨_, _, rfl⟩))))
  case reset => cases h; exact .inr (.inr (.inr (.inr ⟨rfl, rfl⟩)))

/-- Outside `P_IDLE` an operation is running. -/
theorem Inv.busy {s : State} (h : Inv s) (hp : s.phase ≠ .idle) : s.status = .busy := by
  by_contra hh; exact hp (h.idleIff.2 hh)

/-- While an operation runs there is no error and no result (R26). -/
theorem Inv.nothing {s : State} (h : Inv s) (hp : s.phase ≠ .idle) :
    s.err = .noError ∧ s.f = none ∧ s.ci = none ∧ s.info = none ∧ s.infoLen = none := by
  have hb := h.busy hp
  refine ⟨?_, h.noResult (by simp [hb])⟩
  by_contra hh
  have := h.errIff.2 hh
  simp [hb] at this

/-- A run of several steps, its first step taken off. -/
theorem run_next {s t : State} (n : Nat) (h : step s = .next t) : run (n + 1) s = run n t := by
  rw [run, h]

/-- A run in two parts. -/
theorem run_add {m n : Nat} {s t : State} (h : run m s = .next t) : run (m + n) s = run n t := by
  induction m generalizing s with
  | zero => cases h; rw [Nat.zero_add]
  | succ m ih =>
    rw [run] at h
    rw [show m + 1 + n = (m + n) + 1 by omega, run]
    split at h
    · exact ih h
    · cases h
    · cases h

end Sys2Proof.Machine
end

