-- ==== Sys2Proof/Certificates/Slice0/Obligations.lean ====
section
/-! DEFINITION. The statements for the provers: what the numbered rules of spec/ say the machine does. -/

open Sys2Proof Sys2Proof.Machine

/-! ## Encodings -/

/-- R80, R83, R86, R87, R88, R90, R94: with the command codes and the selector codes distinct, the decoder reads
from the encoding of any well-formed instruction that instruction, with every operand at every value. -/
def Obligations.DecodeOfEncodeIsTheInstruction : Prop :=
  ∀ (p : Params) (i : Instr), p.wf = true → p.distinct = true → i.wf = true → decode p (encode p i) = .ok i

/-- R80, R83: what the decoder accepts is exactly the encoding of what it answers, and that is well formed;
for all parameter values. -/
def Obligations.EncodeOfDecodeIsThePayload : Prop :=
  ∀ (p : Params) (bs : Bytes) (i : Instr), decode p bs = .ok i → i.wf = true ∧ encode p i = bs

/-- R80, R83: no payload is both a request and a response, for all parameter values. -/
def Obligations.NoPayloadIsBothRequestAndResponse : Prop :=
  ∀ (p : Params) (bs : Bytes) (i j : Instr), decodeRequest p bs = .ok i → decodeResponse p bs ≠ .ok j

/-- R94: a few words of the opcode table, and what they stand for. Their command and selector codes are general
knowledge (log entry 1, PRESUMED), and how a word becomes a payload, with zeros for the data and the checksum byte of a
response, is the model's choice (log entry 9). -/
def Obligations.TableWordsDecode : Prop :=
  decodeTableWord 48 0x0000020103F9 = some .startMeasurement ∧
  decodeTableWord 32 0x000300FC = some .readMeasurement ∧
  decodeTableWord 64 0x00800400093A80B8 = some (.writeCleaningInterval 604800) ∧
  decodeTableWord 40 0x00D001032B = some (.deviceInfo .serialNumber) ∧
  decodeTableWord 32 0x00D3002C = some .reset ∧
  decodeTableWord 32 0x00800004 = some (.readCleaningIntervalRsp 0 0 0) ∧
  decodeTableWord 32 0x55D30000 = some (.resetRsp 0x55 [] 0)

/-- R89: the request payload of each operation, byte by byte, with the default parameter values; and the two
cleaning-interval rows with a non-empty `CI_PREFIX`. The six command codes but `CODE_START` and the three selector
codes of the default parameters are general knowledge, not the source's (log entry 1, PRESUMED). -/
def Obligations.RequestPayloadsByteByByte : Prop :=
  encode defaultParams .startMeasurement = [0x00, 0x00, 0x02, 0x01, 0x03, 0xF9] ∧
  encode defaultParams .stopMeasurement = [0x00, 0x01, 0x00, 0xFE] ∧
  encode defaultParams .readMeasurement = [0x00, 0x03, 0x00, 0xFC] ∧
  encode defaultParams .readCleaningInterval = [0x00, 0x80, 0x00, 0x7F] ∧
  encode defaultParams .startFanCleaning = [0x00, 0x56, 0x00, 0xA9] ∧
  encode defaultParams (.deviceInfo .productName) = [0x00, 0xD0, 0x01, 0x01, 0x2D] ∧
  encode defaultParams (.deviceInfo .articleCode) = [0x00, 0xD0, 0x01, 0x02, 0x2C] ∧
  encode defaultParams (.deviceInfo .serialNumber) = [0x00, 0xD0, 0x01, 0x03, 0x2B] ∧
  encode defaultParams .reset = [0x00, 0xD3, 0x00, 0x2C] ∧
  (∀ v3 v2 v1 v0 : Byte, ∃ cc : Byte,
    encode defaultParams (.writeCleaningInterval (v3 ++ v2 ++ v1 ++ v0)) = [0x00, 0x80, 0x04, v3, v2, v1, v0, cc] ∧
    cc.toNat = 255 - (0x84 + v3.toNat + v2.toNat + v1.toNat + v0.toNat) % 256) ∧
  (∀ q : Bytes, q.length ≤ 251 → ∃ cc : Byte,
    encode { defaultParams with ciPrefix := q } .readCleaningInterval =
      [0x00, 0x80, BitVec.ofNat 8 q.length] ++ q ++ [cc] ∧
    cc.toNat = 255 - (0x80 + q.length + byteSum q) % 256) ∧
  (∀ (q : Bytes) (v3 v2 v1 v0 : Byte), q.length ≤ 251 → ∃ cc : Byte,
    encode { defaultParams with ciPrefix := q } (.writeCleaningInterval (v3 ++ v2 ++ v1 ++ v0)) =
      [0x00, 0x80, BitVec.ofNat 8 (q.length + 4)] ++ q ++ [v3, v2, v1, v0, cc] ∧
    cc.toNat = 255 - (0x80 + (q.length + 4) + byteSum q + v3.toNat + v2.toNat + v1.toNat + v0.toNat) % 256)

/-- R81: with a legal `CI_PREFIX` no request has more than 255 data bytes, so that its data-length byte is the
number of its data bytes. -/
def Obligations.DataLengthNeverTruncates : Prop :=
  ∀ (p : Params) (i : Instr), p.wf = true →
    (requestData p i).length ≤ 255 ∧
    (i.isRequest = true → (encode p i).length = (requestData p i).length + 4 ∧
      ((encode p i)[2]?).map BitVec.toNat = some (requestData p i).length)

/-! ## Checksum and numeric codecs -/

/-- R110: the checksum of any byte sequence is 255 less the sum of its bytes modulo 256. -/
def Obligations.ChecksumIsComplementOfByteSum : Prop :=
  ∀ s : Bytes, (checksum s).toNat = 255 - byteSum s % 256

/-- R112, laws 1 to 5. -/
def Obligations.ChecksumLaws : Prop :=
  (∀ s, checksum s = ~~~ sum8 s ∧ (sum8 s).toNat = byteSum s % 256) ∧
  checksum [] = 0xFF ∧
  (∀ s t, (checksum (s ++ t)).toNat = 255 - (byteSum s + byteSum t) % 256) ∧
  (∀ s, checksum (s ++ [0x00]) = checksum s) ∧
  (∀ s, (byteSum s + (checksum s).toNat) % 256 = 255) ∧
  (∀ s, s ≠ [] → (checksumMatches s = true ↔ byteSum s % 256 = 255)) ∧
  (∀ s, checksum (s ++ [checksum s]) = 0x00)

/-- R112, law 6: every change of a single byte is detected; a reordering, two changes that cancel, and an
inserted zero byte are not. -/
def Obligations.ChecksumDetectsOneChangedByte : Prop :=
  (∀ (s t : Bytes) (b b' : Byte), b ≠ b' → checksum (s ++ b :: t) ≠ checksum (s ++ b' :: t)) ∧
  (∀ s t : Bytes, s.Perm t → checksum s = checksum t) ∧
  (∀ (s t u : Bytes) (b c d : Byte), checksum (s ++ (b + d) :: (t ++ (c - d) :: u)) = checksum (s ++ b :: (t ++ c :: u))) ∧
  (∀ s t : Bytes, checksum (s ++ 0x00 :: t) = checksum (s ++ t))

/-- R160, R162, R163: the arithmetic forms of both codecs, and that they are inverse to each other. -/
def Obligations.BigEndianCodecsAreInverse : Prop :=
  (∀ v : Word, (be32Enc v).map BitVec.toNat =
    [v.toNat / 256 ^ 3 % 256, v.toNat / 256 ^ 2 % 256, v.toNat / 256 % 256, v.toNat % 256]) ∧
  (∀ b0 b1 b2 b3 : Byte, (be32Dec b0 b1 b2 b3).toNat =
    b0.toNat * 2 ^ 24 + b1.toNat * 2 ^ 16 + b2.toNat * 2 ^ 8 + b3.toNat) ∧
  (∀ v : Word, ∃ b0 b1 b2 b3, be32Enc v = [b0, b1, b2, b3] ∧ be32Dec b0 b1 b2 b3 = v) ∧
  (∀ b0 b1 b2 b3 : Byte, be32Enc (be32Dec b0 b1 b2 b3) = [b0, b1, b2, b3])

/-- R169 (with the field layout of R166, general knowledge, log entry 12): the examples of `F32Dec`. -/
def Obligations.Binary32Examples : Prop :=
  (f32Dec 0x3F 0x80 0x00 0x00 = 0x3F800000 ∧ f32Rat 0x3F800000 = some 1) ∧
  (f32Dec 0x00 0x00 0x00 0x00 = 0x00000000 ∧ f32Value 0x00000000 = .zero false) ∧
  (f32Dec 0x80 0x00 0x00 0x00 = 0x80000000 ∧ f32Value 0x80000000 = .zero true) ∧
  (f32Dec 0xBF 0x80 0x00 0x00 = 0xBF800000 ∧ f32Rat 0xBF800000 = some (-1)) ∧
  (f32Dec 0x40 0x20 0x00 0x00 = 0x40200000 ∧ f32Rat 0x40200000 = some (5 / 2)) ∧
  (f32Dec 0x41 0x24 0x00 0x00 = 0x41240000 ∧ f32Rat 0x41240000 = some (41 / 4)) ∧
  (f32Dec 0x42 0xC8 0x00 0x00 = 0x42C80000 ∧ f32Rat 0x42C80000 = some 100) ∧
  (f32Dec 0x3F 0x00 0x00 0x00 = 0x3F000000 ∧ f32Rat 0x3F000000 = some (1 / 2)) ∧
  (f32Dec 0x00 0x00 0x00 0x01 = 0x00000001 ∧ f32Rat 0x00000001 = some (1 / 2 ^ 149)) ∧
  (f32Dec 0x00 0x80 0x00 0x00 = 0x00800000 ∧ f32Rat 0x00800000 = some (1 / 2 ^ 126)) ∧
  (f32Dec 0x7F 0x7F 0xFF 0xFF = 0x7F7FFFFF ∧ f32Rat 0x7F7FFFFF = some ((2 - 1 / 2 ^ 23) * 2 ^ 127)) ∧
  (f32Dec 0x7F 0x80 0x00 0x00 = 0x7F800000 ∧ f32Value 0x7F800000 = .inf false) ∧
  (f32Dec 0xFF 0x80 0x00 0x00 = 0xFF800000 ∧ f32Value 0xFF800000 = .inf true) ∧
  (f32Dec 0x7F 0xC0 0x00 0x00 = 0x7FC00000 ∧ f32Value 0x7FC00000 = .nan false true 0) ∧
  (f32Dec 0x7F 0xA0 0x00 0x01 = 0x7FA00001 ∧ f32Value 0x7FA00001 = .nan false false 0x200001)

/-- G5 (general knowledge, log entry 3): the reference codec decodes what it encodes, for every payload, and its
stream shows the delimiter nowhere but at its two ends. -/
def Obligations.ReferenceCodecRoundTrip : Prop :=
  ∀ p : Bytes, refDecode (refEncode p) = some p ∧ (refEncode p).count Config.delim = 2

/-! ## Buffers -/

/-- R52: a 4-byte store puts the most significant byte at the lowest index and touches nothing else; a 4-byte load
is the four bytes with the one at the lowest index most significant; the two agree. -/
def Obligations.BigEndianStoreAndLoad : Prop :=
  ∀ (m : Memory) (a : Nat) (v : Word),
    (m.write32 a v).read a = some (v.extractLsb' 24 8) ∧
    (m.write32 a v).read (a + 1) = some (v.extractLsb' 16 8) ∧
    (m.write32 a v).read (a + 2) = some (v.extractLsb' 8 8) ∧
    (m.write32 a v).read (a + 3) = some (v.extractLsb' 0 8) ∧
    (m.write32 a v).read32 a = some v ∧
    (∀ b, (b < a ∨ a + 4 ≤ b) → (m.write32 a v).read b = m.read b) ∧
    (∀ b0 b1 b2 b3, m.read a = some b0 → m.read (a + 1) = some b1 → m.read (a + 2) = some b2 → m.read (a + 3) = some b3 →
      ∃ w, m.read32 a = some w ∧
        w.toNat = b0.toNat * 2 ^ 24 + b1.toNat * 2 ^ 16 + b2.toNat * 2 ^ 8 + b3.toNat)

/-- Every step keeps the three buffers in their canonical form, from every state. -/
def Obligations.StepsKeepBuffersCanonical : Prop :=
  ∀ s t : State, s.txp.wf → s.rxs.wf → s.rxp.wf → step s = .next t → t.txp.wf ∧ t.rxs.wf ∧ t.rxp.wf

/-! ## Reset and the host -/

/-- R230: the state after reset. -/
def Obligations.ResetState : Prop :=
  State.reset.phase = .idle ∧ State.reset.status = .idle ∧ State.reset.err = .noError ∧
  State.reset.delims = 0 ∧ State.reset.rxCnt = 0 ∧ State.reset.txpLen = 0 ∧ State.reset.rxpLen = 0 ∧
  State.reset.acc = 0 ∧
  State.reset.op = none ∧ State.reset.arg = none ∧ State.reset.sel = none ∧
  State.reset.f = none ∧ State.reset.ci = none ∧ State.reset.info = none ∧ State.reset.infoLen = none ∧
  State.reset.issued = none ∧ (∀ k, State.reset.txp.read k = none) ∧ (∀ k, State.reset.rxs.read k = none) ∧
  (∀ k, State.reset.rxp.read k = none)

/-- R230, R231, R232: the engine's reset, whatever the phase, leaves the registers of R230; it touches neither the
parameters nor what the transport has yet to deliver. What had been sent stays sent; in `P_SEND` some prefix of the
stream has gone out besides, and in every other phase nothing has (R211). -/
def Obligations.EngineResetAbandonsAnyPhase : Prop :=
  ∀ (s : State) (rest : List HostMove), s.host = .reset :: rest →
    ∃ (answers : List TxAnswer) (n : Nat) (sent : Bytes),
      step s = .next { State.reset with
        params := s.params, host := rest, hostRd := s.hostRd, txIn := answers, rxIn := s.rxIn,
        writes := n, polls := s.polls, taken := s.taken, wire := s.wire ++ sent, draws := s.draws,
        hostFaults := s.hostFaults } ∧
      (s.phase = .send → ∃ k, sent = s.stream.take k) ∧
      (s.phase ≠ .send → answers = s.txIn ∧ n = s.writes ∧ sent = [])

/-- R23: *start* and operand writes while `BUSY` are refused; in every other status *start* of what is presented is
accepted, and an operand write is taken and changes its own register only. -/
def Obligations.HostMovesWhileBusyAreRefused : Prop :=
  ∀ (s : State) (rest : List HostMove) (o : Op) (v : Word) (x : Selector),
    (s.status = .busy → s.host = .start :: rest → step s = .refused .startWhileBusy) ∧
    (s.status = .busy → s.host = .writeOp o :: rest → step s = .refused .operandWriteWhileBusy) ∧
    (s.status = .busy → s.host = .writeArg v :: rest → step s = .refused .operandWriteWhileBusy) ∧
    (s.status = .busy → s.host = .writeSel x :: rest → step s = .refused .operandWriteWhileBusy) ∧
    (s.status ≠ .busy → s.phase = .idle → s.presented.isSome = true → s.host = .start :: rest →
      ∃ t, step s = .next t ∧ t.status = .busy ∧ t.presented = s.presented) ∧
    (s.status ≠ .busy → s.host = .writeOp o :: rest → step s = .next { s with host := rest, op := some o }) ∧
    (s.status ≠ .busy → s.host = .writeArg v :: rest → step s = .next { s with host := rest, arg := some v }) ∧
    (s.status ≠ .busy → s.host = .writeSel x :: rest → step s = .next { s with host := rest, sel := some x })

/-- R20, R21, R239: a host read delivers what the register holds and changes nothing else. Of a result register that
holds NONE it delivers no value and is a fault of the host's program (R21, U8); that the fault is counted and the
machine goes on is the model's choice (log entry 17). -/
def Obligations.HostReadsDeliverOrFault : Prop :=
  ∀ (s : State) (rest : List HostMove),
    (s.host = .read .status :: rest → step s = .next { s with host := rest, hostRd := some (.status s.status) }) ∧
    (s.host = .read .err :: rest → step s = .next { s with host := rest, hostRd := some (.err s.err) }) ∧
    (∀ v, s.ci = some v → s.host = .read .ci :: rest →
      step s = .next { s with host := rest, hostRd := some (.word v) }) ∧
    (∀ (k : Fin 10) (vs : List Word) (w : Word), s.f = some vs → vs[k.val]? = some w →
      s.host = .read (.f k) :: rest → step s = .next { s with host := rest, hostRd := some (.word w) }) ∧
    (∀ (k : Fin 32) (bs : Bytes) (b : Byte), s.info = some bs → bs[k.val]? = some b →
      s.host = .read (.info k) :: rest → step s = .next { s with host := rest, hostRd := some (.byte b) }) ∧
    (∀ n, s.infoLen = some n → s.host = .read .infoLen :: rest →
      step s = .next { s with host := rest, hostRd := some (.length n) }) ∧
    (s.ci = none → s.host = .read .ci :: rest →
      step s = .next { s with host := rest, hostRd := none, hostFaults := s.hostFaults + 1 }) ∧
    (∀ k, s.f = none → s.host = .read (.f k) :: rest →
      step s = .next { s with host := rest, hostRd := none, hostFaults := s.hostFaults + 1 }) ∧
    (∀ k, s.info = none → s.host = .read (.info k) :: rest →
      step s = .next { s with host := rest, hostRd := none, hostFaults := s.hostFaults + 1 }) ∧
    (s.infoLen = none → s.host = .read .infoLen :: rest →
      step s = .next { s with host := rest, hostRd := none, hostFaults := s.hostFaults + 1 })

/-- R26, R45: the first step of every operation, accepted whenever none runs: `BUSY`, no error, no results, the
working registers re-initialised; nothing else changes but the operand registers the call itself gives. -/
def Obligations.EveryOperationStarts : Prop :=
  ∀ (i : Instr) (s : State), i.isRequest = true → s.phase = .idle → s.status ≠ .busy →
    ∃ t, exec i s = .next t ∧
      t.presented = some i ∧ t.status = .busy ∧ t.err = .noError ∧ t.phase = .build ∧
      t.f = none ∧ t.ci = none ∧ t.info = none ∧ t.infoLen = none ∧
      t.txpLen = 0 ∧ t.rxCnt = 0 ∧ t.delims = 0 ∧ t.rxpLen = 0 ∧ t.acc = 0 ∧
      (∀ k, t.txp.read k = none) ∧ (∀ k, t.rxs.read k = none) ∧ (∀ k, t.rxp.read k = none) ∧
      (i.opOf ≠ .writeCleaningInterval → t.arg = s.arg) ∧ (i.opOf ≠ .deviceInfo → t.sel = s.sel) ∧
      t.params = s.params ∧ t.host = s.host ∧ t.hostRd = s.hostRd ∧ t.txIn = s.txIn ∧ t.rxIn = s.rxIn ∧
      t.writes = s.writes ∧ t.polls = s.polls ∧ t.taken = s.taken ∧ t.wire = s.wire ∧ t.draws = s.draws ∧
      t.hostFaults = s.hostFaults

/-- R45: the engine keeps nothing from one operation to the next. Two states that agree on the parameters, the
operand registers, the host and the transport start the same operation in the same state, whatever their result
registers, working registers, buffers, `STATUS` and `ERR` hold. (That `ISSUED` is among what is forgotten is
log entry 8.) -/
def Obligations.NothingSurvivesAStart : Prop :=
  ∀ (i : Instr) (s s' : State), i.isRequest = true →
    s.phase = .idle → s'.phase = .idle → s.status ≠ .busy → s'.status ≠ .busy →
    s.params = s'.params → s.op = s'.op → s.arg = s'.arg → s.sel = s'.sel → s.host = s'.host → s.hostRd = s'.hostRd →
    s.txIn = s'.txIn → s.rxIn = s'.rxIn → s.writes = s'.writes → s.polls = s'.polls → s.taken = s'.taken →
    s.wire = s'.wire → s.draws = s'.draws → s.hostFaults = s'.hostFaults → exec i s = exec i s'

/-! ## A step runs the instruction -/

/-- R24, R62: with the host making no move, the engine's step up to `P_DECODE` is `exec` of the operation its
operand registers present, and in `P_IDLE` it waits; the host's *start* runs `exec` of the operation presented,
with the move taken off the host's script and nothing else around it. -/
def Obligations.StepRunsThePresentedOperation : Prop :=
  ∀ (s : State) (i : Instr) (rest : List HostMove), s.presented = some i →
    (s.host = [] → s.phase = .idle → step s = .next s) ∧
    (s.host = [] → (s.phase = .build ∨ s.phase = .encode ∨ s.phase = .send ∨ s.phase = .recv ∨ s.phase = .decode) →
      step s = exec i s) ∧
    (s.host = .start :: rest → s.status ≠ .busy → step s = exec i { s with host := rest })

/-- R83, R91, R94 say what is a row and what its checks find; that a step runs the row, or else the operation, is the
model's choice (log entry 11). In a response phase, with the host's script empty: when the payload in `RXP` is the response row `i` of the
running operation, a step is `exec` of that row, and that is also `exec` of the operation presented; when it is no
such row, a step is `exec` of the operation presented (and ends in the error its checks find). A device-information
payload with more than 32 data bytes is no row. -/
def Obligations.StepRunsTheDecodedResponse : Prop :=
  (∀ (s : State) (k : Instr) (bs : Bytes), s.host = [] →
    (s.phase = .check ∨ s.phase = .validate ∨ s.phase = .extract) →
    s.presented = some k → s.payload = some bs →
    (∀ i, decodeResponseFor s.params k.opOf bs = .ok i → step s = exec i s ∧ exec i s = exec k s) ∧
    (∀ e, decodeResponseFor s.params k.opOf bs = .error e → step s = exec k s)) ∧
  (∀ (p : Params) (bs : Bytes), 37 < bs.length → ∃ e, decodeResponseFor p .deviceInfo bs = .error e)

/-- A word of the table that decodes (R94) is the instruction the very next step runs after it has been placed. How a
word is placed, and that the next step runs it, is the model's choice (log entry 9): the engine fetches no words. -/
def Obligations.TableWordRunsNext : Prop :=
  ∀ (s : State) (nbits w : Nat) (i : Instr), decodeTableWord nbits w = some i →
    step (s.withFetchWord nbits w) = exec i { s.withFetchWord nbits w with host := s.host }

/-! ## The request path -/

/-- R120, R121, R80: `P_BUILD` of every operation, for every legal `CI_PREFIX`: `TXP` holds address 0, the command
code, the number of data bytes, the data, and 255 less their sum modulo 256; nothing else changes but `ISSUED`,
`TXP_LEN`, the accumulator and the phase, and `TXP` only at the indices written. -/
def Obligations.BuildWritesTheRequest : Prop :=
  ∀ (i : Instr) (s : State), i.isRequest = true → s.phase = .build → s.params.wf = true →
    ∃ (m : Memory) (acc cc : Byte),
      exec i s = .next { s with
        issued := some (codeOf s.params i.opOf), txp := m, txpLen := (requestData s.params i).length + 4,
        acc := acc, phase := .encode } ∧
      m.readBytes 0 ((requestData s.params i).length + 4) =
        some ([0x00, codeOf s.params i.opOf, BitVec.ofNat 8 (requestData s.params i).length] ++
          requestData s.params i ++ [cc]) ∧
      acc.toNat = ((codeOf s.params i.opOf).toNat + (requestData s.params i).length +
        byteSum (requestData s.params i)) % 256 ∧
      cc.toNat = 255 - acc.toNat ∧
      (∀ k, (requestData s.params i).length + 4 ≤ k → m.read k = s.txp.read k)

/-- R64, R52, R185: the last four data bytes of a write-cleaning-interval request are `ARG`, big-endian, at index
`3 + len(CI_PREFIX)` of `TXP`. -/
def Obligations.WriteRequestCarriesArg : Prop :=
  ∀ (v : Word) (s t : State), s.phase = .build → exec (.writeCleaningInterval v) s = .next t →
    t.txp.read32 (3 + s.params.ciPrefix.length) = some v

/-- R122: `P_ENCODE` of every operation, for every codec: the whole request is handed to it, a failure ends the
operation with `FramingError`, and nothing is written or polled. -/
def Obligations.EncodeStepHandsOverTheRequest : Prop :=
  ∀ (i : Instr) (s : State) (bs : Bytes), i.isRequest = true → s.phase = .encode → s.request = some bs →
    (codecEncode s.params.codec bs = none → exec i s = .next (s.raise .framingError)) ∧
    (∀ stream, codecEncode s.params.codec bs = some stream →
      exec i s = .next { s with stream := stream, phase := .send })

/-- R123, R56: `P_SEND` of every operation: one `TX.write_all` of the whole stream; on `ok` all of it has been
accepted and the receive begins with both counters 0; on `fail` some prefix has, the operation ends with
`WriteError`, and no poll is made. -/
def Obligations.SendWritesTheStreamOnce : Prop :=
  ∀ (i : Instr) (s : State), i.isRequest = true → s.phase = .send →
    (s.txNext = .ok → exec i s = .next { s with
      txIn := s.txIn.tail, writes := s.writes + 1, wire := s.wire ++ s.stream,
      rxCnt := 0, delims := 0, phase := .recv }) ∧
    (∀ n, s.txNext = .fail n → exec i s = .next (State.raise { s with
      txIn := s.txIn.tail, writes := s.writes + 1, wire := s.wire ++ s.stream.take n } .writeError))

/-! ## The response path -/

/-- R131, R133 to R136: one step of `P_RECV` of every operation makes one poll. Would-block changes nothing but the
count of polls; a failure ends the operation with `ReadError`; a byte is kept at `RXS[RX_CNT]` and counted, and
the second delimiter ends the receive, else the 600th byte ends the operation with `InvalidFrame`. -/
def Obligations.ReceiveStepMakesOnePoll : Prop :=
  ∀ (i : Instr) (s : State), i.isRequest = true → s.phase = .recv → s.rxCnt < 600 →
    (s.rxNext = .wouldBlock → exec i s = .next { s with rxIn := s.rxIn.tail, polls := s.polls + 1 }) ∧
    (s.rxNext = .fail → exec i s = .next (State.raise { s with rxIn := s.rxIn.tail, polls := s.polls + 1 } .readError)) ∧
    (∀ b, s.rxNext = .byte b → ∃ (m : Memory) (t : State),
      m.read s.rxCnt = some b ∧ (∀ k, k ≠ s.rxCnt → m.read k = s.rxs.read k) ∧
      t = { s with
        rxIn := s.rxIn.tail, polls := s.polls + 1, taken := s.taken + 1, rxs := m, rxCnt := s.rxCnt + 1,
        delims := if b = 0x7E then s.delims + 1 else s.delims } ∧
      exec i s = .next (
        if t.delims = 2 then { t with phase := .decode }
        else if t.rxCnt = 600 then t.raise .invalidFrame
        else t))

/-- R137, R138: `P_DECODE` of every operation, for every codec: the whole captured stream is handed to it; its
answer is what `RXP` then holds, or a failure ends the operation with `FramingError`. -/
def Obligations.DecodeStepTakesTheCapturedStream : Prop :=
  ∀ (i : Instr) (s : State) (bs : Bytes), i.isRequest = true → s.phase = .decode → s.captured = some bs →
    (codecDecode s.params.codec bs = none → exec i s = .next (s.raise .framingError)) ∧
    (∀ r, codecDecode s.params.codec bs = some r → ∃ (m : Memory) (t : State),
      t = { s with rxp := m, rxpLen := r.length, phase := .check } ∧
      exec i s = .next t ∧ t.payload = some r ∧ ∀ k, r.length ≤ k → m.read k = none)

/-- R139, R140: `P_CHECK` of every operation: the payload passes exactly when it has a last byte and that byte is
255 less the sum of the bytes before it modulo 256; else the operation ends with `ChecksumFailed`. Nothing else
changes but the accumulator. -/
def Obligations.CheckComparesTheLastByte : Prop :=
  ∀ (i : Instr) (s : State) (bs : Bytes), i.isRequest = true → s.phase = .check → s.payload = some bs →
    ∃ acc : Byte,
      ((∃ cc, bs.getLast? = some cc ∧ cc.toNat = 255 - byteSum bs.dropLast % 256) →
        exec i s = .next { s with acc := acc, phase := .validate }) ∧
      ((∀ cc, bs.getLast? = some cc → cc.toNat ≠ 255 - byteSum bs.dropLast % 256) →
        exec i s = .next (State.raise { s with acc := acc } .checksumFailed))

/-- R150, R151, R152: `P_VALIDATE` of every operation: checks (a) to (d) in that order, lengths compared as
integers. -/
def Obligations.ValidateMakesFourChecksInOrder : Prop :=
  ∀ (i : Instr) (s : State) (bs : Bytes) (c : Byte), i.isRequest = true → s.phase = .validate →
    s.payload = some bs → s.issued = some c →
    exec i s = .next (
      if bs.length < 5 then s.raise .invalidResponse
      else if bs[1]? ≠ some c then s.raise .invalidResponse
      else if bs[2]? ≠ some 0x00 then s.raise .statusError
      else if (bs[3]?).map BitVec.toNat ≠ some (bs.length - 5) then s.raise .invalidResponse
      else { s with phase := .extract })

/-- R152, R153, R154: what a payload that passes the validator has, and that nothing else is asked of it: neither
the address byte nor the data. -/
def Obligations.ValidatorAcceptsExactly : Prop :=
  ∀ (c : Byte) (bs : Bytes), validateKind c bs = none ↔
    ∃ (a cc : Byte) (data : Bytes), data.length ≤ 255 ∧
      bs = [a, c, 0x00, BitVec.ofNat 8 data.length] ++ data ++ [cc]

/-- R181, R182, R186, R188: the four operations with no payload to decode. Their requests carry `START_DATA` or no
data; their `Extract` ends the operation with success whatever the validated payload, and writes no result.
The clauses on the default payloads of `stop_measurement`, `start_fan_cleaning` and `reset` rest on the codes 01, 56
and D3, which are general knowledge, not the source's (log entry 1, PRESUMED); no rule is cited for them. -/
def Obligations.CommandsSucceedOnAnyValidatedFrame : Prop :=
  (∀ p : Params,
    codeOf p .startMeasurement = 0x00 ∧ requestData p .startMeasurement = [0x01, 0x03] ∧
    codeOf p .stopMeasurement = p.codeStop ∧ requestData p .stopMeasurement = [] ∧
    codeOf p .startFanCleaning = p.codeFan ∧ requestData p .startFanCleaning = [] ∧
    codeOf p .reset = p.codeReset ∧ requestData p .reset = []) ∧
  encode defaultParams .startMeasurement = [0x00, 0x00, 0x02, 0x01, 0x03, 0xF9] ∧
  encode defaultParams .stopMeasurement = [0x00, 0x01, 0x00, 0xFE] ∧
  encode defaultParams .startFanCleaning = [0x00, 0x56, 0x00, 0xA9] ∧
  encode defaultParams .reset = [0x00, 0xD3, 0x00, 0x2C] ∧
  ∀ (i : Instr) (s : State) (bs : Bytes),
    (i = .startMeasurement ∨ i = .stopMeasurement ∨ i = .startFanCleaning ∨ i = .reset) →
    s.phase = .extract → s.payload = some bs → exec i s = .next { s with status := .ok, phase := .idle }

/-- R183, R168: `read_measurement` on a validated payload of `n` bytes.
The clause on the default payload rests on the code 03, general knowledge, not the source's (log entry 1, PRESUMED);
no rule is cited for it. -/
def Obligations.ReadMeasurementExtract : Prop :=
  (∀ p : Params, codeOf p .readMeasurement = p.codeRead ∧ requestData p .readMeasurement = []) ∧
  encode defaultParams .readMeasurement = [0x00, 0x03, 0x00, 0xFC] ∧
  ∀ (s : State) (bs : Bytes) (c : Byte), s.phase = .extract → s.payload = some bs → validateKind c bs = none →
    (bs.length = 45 → ∃ v : List Word, v.length = 10 ∧ (∀ k, k < 10 → s.rxp.read32 (4 + 4 * k) = v[k]?) ∧
      exec .readMeasurement s = .next { s with status := .ok, phase := .idle, f := some v }) ∧
    (bs.length = 5 → exec .readMeasurement s = .next (s.raise .emptyResult)) ∧
    (bs.length ≠ 45 → bs.length ≠ 5 → exec .readMeasurement s = .next (s.raise .invalidFrame))

/-- R184: `read_cleaning_interval` on a validated payload.
The clause on the default payload rests on the code 80 and the empty `CI_PREFIX`, the first general knowledge, not the
source's (log entry 1, PRESUMED); no rule is cited for it. -/
def Obligations.ReadCleaningIntervalExtract : Prop :=
  (∀ p : Params, codeOf p .readCleaningInterval = p.codeCi ∧ requestData p .readCleaningInterval = p.ciPrefix) ∧
  encode defaultParams .readCleaningInterval = [0x00, 0x80, 0x00, 0x7F] ∧
  ∀ (s : State) (bs : Bytes) (c : Byte), s.phase = .extract → s.payload = some bs → validateKind c bs = none →
    (bs[3]? = some 4 → ∃ v : Word, s.rxp.read32 4 = some v ∧
      exec .readCleaningInterval s = .next { s with status := .ok, phase := .idle, ci := some v }) ∧
    (bs[3]? ≠ some 4 → exec .readCleaningInterval s = .next (s.raise .invalidResponse))

/-- R185: `write_cleaning_interval` on a validated payload; `CI` is not written.
The clause on the default payload of 604800 rests on the code 80 and the empty `CI_PREFIX`, the first general
knowledge, not the source's (log entry 1, PRESUMED); no rule is cited for it. -/
def Obligations.WriteCleaningIntervalExtract : Prop :=
  (∀ (p : Params) (v : Word), codeOf p .writeCleaningInterval = p.codeCi ∧
    requestData p (.writeCleaningInterval v) = p.ciPrefix ++ be32Enc v) ∧
  encode defaultParams (.writeCleaningInterval 604800) = [0x00, 0x80, 0x04, 0x00, 0x09, 0x3A, 0x80, 0xB8] ∧
  ∀ (v : Word) (s : State) (bs : Bytes) (c : Byte), s.phase = .extract → s.payload = some bs →
    validateKind c bs = none →
    (bs[3]? = some 0 → exec (.writeCleaningInterval v) s = .next { s with status := .ok, phase := .idle }) ∧
    (bs[3]? ≠ some 0 → exec (.writeCleaningInterval v) s = .next (s.raise .invalidResponse))

/-- R187: `device_info` on a validated payload: the data, zero-fill to 32 bytes and the reported length, or
`EmptyResult` when the data exceed 32 bytes.
The clause on the default payload rests on the command code D0 and the selector code 01, general knowledge, not the
source's (log entry 1, PRESUMED); no rule is cited for it. -/
def Obligations.DeviceInfoExtract : Prop :=
  (∀ (p : Params) (x : Selector), codeOf p .deviceInfo = p.codeInfo ∧ requestData p (.deviceInfo x) = [selCode p x]) ∧
  encode defaultParams (.deviceInfo .productName) = [0x00, 0xD0, 0x01, 0x01, 0x2D] ∧
  ∀ (x : Selector) (s : State) (bs : Bytes) (c : Byte), s.phase = .extract → s.payload = some bs →
    validateKind c bs = none →
    (bs.length ≤ 37 → ∃ buf : Bytes, buf.length = 32 ∧
      (∀ k, k < 32 → buf[k]? = if k < bs.length - 5 then s.rxp.read (4 + k) else some 0) ∧
      exec (.deviceInfo x) s = .next { s with
        status := .ok, phase := .idle, info := some buf, infoLen := some (bs.length - 5) }) ∧
    (37 < bs.length → exec (.deviceInfo x) s = .next (s.raise .emptyResult))

/-! ## The response rows -/

/-- R83, R139: a response row in `P_CHECK`, whatever operation runs: its payload passes exactly when its bytes sum
to 255 modulo 256. -/
def Obligations.ResponseRowsAreChecked : Prop :=
  ∀ (i : Instr) (s : State) (o : Op), i.isRequest = false → s.phase = .check → s.op = some o →
    ∃ acc : Byte, exec i s = .next (
      if byteSum (encode s.params i) % 256 = 255 then { s with acc := acc, phase := .validate }
      else State.raise { s with acc := acc } .checksumFailed)

/-- R91, R150: a well-formed response row in `P_VALIDATE`: it passes exactly when its command code is the issued
one, else the operation ends with `InvalidResponse`. -/
def Obligations.ResponseRowsAreValidated : Prop :=
  ∀ (i : Instr) (s : State) (o : Op) (c : Byte), i.isRequest = false → i.wf = true → s.phase = .validate →
    s.op = some o → s.issued = some c →
    exec i s = .next (
      if codeOf s.params i.opOf = c then { s with phase := .extract } else s.raise .invalidResponse)

/-- R90, R181 to R188: each response row in `P_EXTRACT` of its own operation: the result it delivers. (The last clause is
about a term that is no well-formed row, R94: its bytes are those of an overlong device-information payload.) -/
def Obligations.ResponseRowsDeliverTheirResult : Prop :=
  ∀ (s : State) (a cc : Byte) (data : Bytes), s.phase = .extract →
    (s.op = some .startMeasurement →
      exec (.startMeasurementRsp a data cc) s = .next { s with status := .ok, phase := .idle }) ∧
    (s.op = some .stopMeasurement →
      exec (.stopMeasurementRsp a data cc) s = .next { s with status := .ok, phase := .idle }) ∧
    (s.op = some .startFanCleaning →
      exec (.startFanCleaningRsp a data cc) s = .next { s with status := .ok, phase := .idle }) ∧
    (s.op = some .reset →
      exec (.resetRsp a data cc) s = .next { s with status := .ok, phase := .idle }) ∧
    (∀ values : List Word, s.op = some .readMeasurement → values.length = 10 →
      exec (.readMeasurementRsp a values cc) s = .next { s with status := .ok, phase := .idle, f := some values }) ∧
    (∀ value : Word, s.op = some .readCleaningInterval →
      exec (.readCleaningIntervalRsp a value cc) s = .next { s with status := .ok, phase := .idle, ci := some value }) ∧
    (s.op = some .writeCleaningInterval →
      exec (.writeCleaningIntervalRsp a cc) s = .next { s with status := .ok, phase := .idle }) ∧
    (s.op = some .deviceInfo → data.length ≤ 32 →
      exec (.deviceInfoRsp a data cc) s = .next { s with
        status := .ok, phase := .idle, info := some (data ++ List.replicate (32 - data.length) 0),
        infoLen := some data.length }) ∧
    (s.op = some .deviceInfo → 32 < data.length → data.length ≤ 255 →
      exec (.deviceInfoRsp a data cc) s = .next (s.raise .emptyResult))

/-- Outside the three response phases the engine holds no decoded payload (R24, R35). That a response row is refused
there is the model's choice (log entry 11): the spec gives no such stop, and no step of the machine asks for it. -/
def Obligations.ResponseRowsRefusedElsewhere : Prop :=
  ∀ (i : Instr) (s : State) (o : Op), i.isRequest = false → s.op = some o →
    (exec i s = .refused .noResponseExpected ↔
      s.phase ≠ .check ∧ s.phase ≠ .validate ∧ s.phase ≠ .extract)

/-! ## Errors -/

/-- R210, R209: taking an error does exactly this and nothing else. -/
def Obligations.RaiseDoesExactlyThis : Prop :=
  ∀ (s : State) (k : ErrKind), s.raise k =
    { s with err := k, status := .err, f := none, ci := none, info := none, infoLen := none, phase := .idle }

/-- R200: the codes of the error kinds; 9 to 15 are never produced. -/
def Obligations.ErrorCodes : Prop :=
  errCode .noError = 0 ∧ errCode .writeError = 1 ∧ errCode .readError = 2 ∧ errCode .framingError = 3 ∧
  errCode .invalidFrame = 4 ∧ errCode .emptyResult = 5 ∧ errCode .checksumFailed = 6 ∧
  errCode .invalidResponse = 7 ∧ errCode .statusError = 8 ∧ ∀ k, (errCode k).toNat ≤ 8

/-- R200 to R208: which phase raises which kind, over every step of a running operation; and what an error always
leaves (R210). -/
def Obligations.ErrorKindsByPhase : Prop :=
  ∀ s t : State, Undisturbed s → step s = .next t → t.status = .err →
    t.phase = .idle ∧ t.f = none ∧ t.ci = none ∧ t.info = none ∧ t.infoLen = none ∧
    ((s.phase = .send ∧ t.err = .writeError) ∨
     (s.phase = .recv ∧ t.err = .readError) ∨
     (s.phase = .encode ∧ t.err = .framingError) ∨
     (s.phase = .decode ∧ t.err = .framingError) ∨
     (s.phase = .recv ∧ t.err = .invalidFrame) ∨
     (s.phase = .extract ∧ t.err = .invalidFrame ∧ s.op = some .readMeasurement) ∨
     (s.phase = .extract ∧ t.err = .emptyResult ∧ (s.op = some .readMeasurement ∨ s.op = some .deviceInfo)) ∨
     (s.phase = .check ∧ t.err = .checksumFailed) ∨
     (s.phase = .validate ∧ t.err = .invalidResponse) ∨
     (s.phase = .extract ∧ t.err = .invalidResponse ∧
       (s.op = some .readCleaningInterval ∨ s.op = some .writeCleaningInterval)) ∨
     (s.phase = .validate ∧ t.err = .statusError))

/-- R212, R190: from `P_CHECK` on, three steps of the engine end the operation, and its verdict is the first
condition that holds in this order: the checksum, checks (a) to (d), the operation's own check on the length. -/
def Obligations.ResponseVerdictInPriorityOrder : Prop :=
  ∀ (s : State) (k : Instr) (bs : Bytes) (c : Byte), Inv s → s.host = [] → s.phase = .check →
    s.presented = some k → s.payload = some bs → s.issued = some c →
    ∃ t, run 3 s = .next t ∧ t.phase = .idle ∧ t.host = [] ∧
      t.err =
        (if bs = [] ∨ byteSum bs % 256 ≠ 255 then .checksumFailed
        else if bs.length < 5 then .invalidResponse
        else if bs[1]? ≠ some c then .invalidResponse
        else if bs[2]? ≠ some 0x00 then .statusError
        else if (bs[3]?).map BitVec.toNat ≠ some (bs.length - 5) then .invalidResponse
        else
          match k.opOf with
          | .readMeasurement =>
            if bs.length = 45 then .noError else if bs.length = 5 then .emptyResult else .invalidFrame
          | .readCleaningInterval => if bs.length = 9 then .noError else .invalidResponse
          | .writeCleaningInterval => if bs.length = 5 then .noError else .invalidResponse
          | .deviceInfo => if bs.length ≤ 37 then .noError else .emptyResult
          | .startMeasurement => .noError
          | .stopMeasurement => .noError
          | .startFanCleaning => .noError
          | .reset => .noError) ∧
      t.status = if t.err = .noError then .ok else .err

/-! ## The whole machine -/

/-- The invariant holds after reset. -/
def Obligations.InvariantHoldsAtReset : Prop := Inv State.reset

/-- Every step keeps the invariant, from every state that meets it, whatever the host and the transport do. -/
def Obligations.StepsKeepTheInvariant : Prop :=
  ∀ s t : State, Inv s → step s = .next t → Inv t

/-- R21, R50: the engine itself never reads a register that holds no value, and never stores outside a buffer: no step
of a run faults, whatever the host, the transport and the codec do. -/
def Obligations.EngineNeverReadsNone : Prop :=
  ∀ (s : State) (r : Fault), Inv s → step s ≠ .fault r

/-- R134, R217, R223: while an operation runs and the host makes no move the machine always has a next state: no
fault, no refusal, whatever the transport and the codec answer. -/
def Obligations.RunningEngineAlwaysSteps : Prop :=
  ∀ s : State, Inv s → Undisturbed s → ∃ t, step s = .next t

/-- R60, R25: bytes go to the transport only in `P_SEND` and are polled for only in `P_RECV`, at most one write and
one poll a step; what was written before stays written. -/
def Obligations.PortsAreUsedInTheirPhasesOnly : Prop :=
  ∀ s t : State, step s = .next t →
    (t.writes ≠ s.writes ∨ t.wire ≠ s.wire → s.phase = .send) ∧
    (t.polls ≠ s.polls ∨ t.taken ≠ s.taken → s.phase = .recv) ∧
    s.writes ≤ t.writes ∧ t.writes ≤ s.writes + 1 ∧ s.polls ≤ t.polls ∧ t.polls ≤ s.polls + 1 ∧
    t.taken - s.taken ≤ t.polls - s.polls ∧ ∃ sent, t.wire = s.wire ++ sent

/-- R29: no step changes the parameters. -/
def Obligations.ParametersNeverChange : Prop :=
  ∀ s t : State, step s = .next t → t.params = s.params

/-- R23, R62: the operands are sampled at *start*: no step of the engine changes them while the operation runs. -/
def Obligations.OperandsAreFixedWhileBusy : Prop :=
  ∀ s t : State, s.status = .busy → step s = .next t → t.phase ≠ .idle →
    t.op = s.op ∧ t.arg = s.arg ∧ t.sel = s.sel ∧ t.presented = s.presented

/-- R24, R189: the only control transfers: each phase to the next, `P_RECV` to itself, and to `P_IDLE` (the end of
the operation, an error or the reset input). -/
def Obligations.PhasesFollowTheirOrder : Prop :=
  ∀ s t : State, Inv s → step s = .next t →
    t.phase = s.phase ∨ t.phase = .idle ∨ phaseNumber t.phase = phaseNumber s.phase + 1

/-- R30, R31, R32, R180: a step that ends an operation with success leaves that operation's result in its own
registers and every other result register without a value. -/
def Obligations.SuccessHoldsOnlyItsOwnResult : Prop :=
  ∀ s t : State, Inv s → Undisturbed s → step s = .next t → t.status = .ok →
    s.phase = .extract ∧ t.phase = .idle ∧ t.err = .noError ∧
    (t.f.isSome = true ↔ s.op = some .readMeasurement) ∧
    (t.ci.isSome = true ↔ s.op = some .readCleaningInterval) ∧
    (t.info.isSome = true ↔ s.op = some .deviceInfo) ∧
    (t.infoLen.isSome = true ↔ s.op = some .deviceInfo)

/-- R133, R134, R136, R141: a receive whose answers, would-block answers among them, deliver the second delimiter as
their last byte and within 600 bytes captures exactly those bytes, consumes no other and goes on to decode. -/
def Obligations.ReceiveCapturesUpToTheSecondDelimiter : Prop :=
  ∀ (s : State) (answers rest : List RxAnswer), Undisturbed s → s.presented.isSome = true → s.phase = .recv →
    s.rxCnt = 0 → s.delims = 0 → s.rxIn = answers ++ rest → .fail ∉ answers →
    answers.getLast? = some (.byte Config.delim) → (rxBytes answers).count Config.delim = 2 →
    (rxBytes answers).length ≤ 600 →
    ∃ t, run answers.length s = .next t ∧ t.phase = .decode ∧ t.status = .busy ∧
      t.captured = some (rxBytes answers) ∧ t.rxCnt = (rxBytes answers).length ∧ t.delims = 2 ∧ t.rxIn = rest ∧
      t.polls = s.polls + answers.length ∧ t.taken = s.taken + (rxBytes answers).length

/-- R133: a receive whose first 600 bytes hold fewer than two delimiters ends with `InvalidFrame` in the step that
takes the 600th byte: 600 bytes are consumed and no further poll is made. -/
def Obligations.ReceiveFailsAtTheCap : Prop :=
  ∀ (s : State) (answers rest : List RxAnswer), Undisturbed s → s.presented.isSome = true → s.phase = .recv →
    s.rxCnt = 0 → s.delims = 0 → s.rxIn = answers ++ rest → .fail ∉ answers →
    answers.getLast? ≠ some .wouldBlock → (rxBytes answers).count Config.delim < 2 →
    (rxBytes answers).length = 600 →
    ∃ t, run answers.length s = .next t ∧ t.phase = .idle ∧ t.status = .err ∧ t.err = .invalidFrame ∧
      t.rxIn = rest ∧ t.polls = s.polls + answers.length ∧ t.taken = s.taken + 600

/-- R134: a transport that answers would-block for ever makes the operation hang: after any number of such answers
it is still running, and nothing but the count of polls has changed. -/
def Obligations.WouldBlockHangsTheOperation : Prop :=
  ∀ (s : State) (n : Nat) (rest : List RxAnswer), Undisturbed s → s.presented.isSome = true → s.phase = .recv →
    s.rxIn = List.replicate n .wouldBlock ++ rest →
    run n s = .next { s with rxIn := rest, polls := s.polls + n }

/-- R180: a whole operation, for every codec, every legal parameter value and every state the engine can be idle in.
If the codec encodes the request, the transport accepts it and then delivers a frame that the codec decodes to a
response row of this operation with a right checksum, the operation ends with success: the stream has been
written once, only the frame has been consumed, and the result registers hold what that row delivers. -/
def Obligations.OperationRunsToItsResult : Prop :=
  ∀ (i j : Instr) (s : State) (stream : Bytes) (answers rest : List RxAnswer) (txRest : List TxAnswer),
    s.params.wf = true → s.phase = .idle → s.status ≠ .busy → s.host = [.start] → s.presented = some i →
    codecEncode s.params.codec (encode s.params i) = some stream → s.txIn = .ok :: txRest →
    s.rxIn = answers ++ rest → .fail ∉ answers → answers.getLast? = some (.byte Config.delim) →
    (rxBytes answers).count Config.delim = 2 → (rxBytes answers).length ≤ 600 →
    codecDecode s.params.codec (rxBytes answers) = some (encode s.params j) →
    j.isRequest = false → j.opOf = i.opOf → j.wf = true → succeeds s.params j →
    ∃ t, run (answers.length + 8) s = .next t ∧ t.phase = .idle ∧ t.status = .ok ∧ t.err = .noError ∧
      delivers j t ∧ t.wire = s.wire ++ stream ∧ t.writes = s.writes + 1 ∧ t.rxIn = rest ∧
      t.polls = s.polls + answers.length ∧ t.taken = s.taken + (rxBytes answers).length

/-! ## Starts and resets outside the usual -/

/-- R23, R230 (that the operation runs, with a free value, is log entry 14, the model's choice): *start* with an operand
register that holds NONE is accepted like any other. The operation is the one `OP` holds, if it holds one, and its
operands are those `ARG` and `SEL` hold, if they hold one; the first step is `exec` of it, and the operand registers
then present it. -/
def Obligations.StartWithUnwrittenOperandsRuns : Prop :=
  ∀ (s : State) (rest : List HostMove), s.host = .start :: rest → s.status ≠ .busy → s.phase = .idle →
    s.presented = none →
    ∃ (i : Instr) (t : State), i.isRequest = true ∧ (∀ o, s.op = some o → i.opOf = o) ∧
      (∀ v w, s.arg = some v → i = .writeCleaningInterval w → w = v) ∧
      (∀ x y, s.sel = some x → i = .deviceInfo y → y = x) ∧
      exec i { s with host := rest, draws := s.draws + 1 } = .next t ∧ step s = .next t ∧
      t.presented = some i ∧ t.status = .busy ∧ t.phase = .build

/-- R211, R231 (which prefix it is, is the transport's answer to the call under way: log entry 16, the model's
choice): a reset in `P_SEND` leaves the first `k` bytes of the stream sent, for every `k` the transport may answer,
none and all among them. -/
def Obligations.ResetInSendLeavesAnyPrefix : Prop :=
  ∀ (s : State) (rest : List HostMove), s.host = .reset :: rest → s.phase = .send →
    (∀ k, s.txNext = .fail k → ∃ t, step s = .next t ∧ t.wire = s.wire ++ s.stream.take k ∧
      t.phase = .idle ∧ t.status = .idle ∧ t.err = .noError ∧ t.txIn = s.txIn.tail ∧ t.polls = s.polls) ∧
    (s.txNext = .ok → ∃ t, step s = .next t ∧ t.wire = s.wire ++ s.stream ∧
      t.phase = .idle ∧ t.status = .idle ∧ t.err = .noError ∧ t.txIn = s.txIn.tail ∧ t.polls = s.polls)
end

