-- ==== Sys2Proof/Laws/PerInstr.lean ====
section
/-! SUPPORT. What the encoding of each instruction looks like, one lemma per constructor. -/

namespace Sys2Proof.Laws.Encoding

/-- With a legal `CI_PREFIX`, the payload of a well-formed instruction has 4 to 260 bytes, and its second byte is
the operation's command code (R80, R83, R87; 30_encoding.md). -/
def Statement (i : Instr) : Prop :=
  ∀ p : Params, p.wf = true → i.wf = true →
    4 ≤ (encode p i).length ∧ (encode p i).length ≤ 260 ∧ (encode p i)[1]? = some (codeOf p i.opOf)

/-- A request payload whose data are at most 255 bytes. -/
theorem of_request {i : Instr}
    (h : ∀ p : Params, encode p i = requestPayload (codeOf p i.opOf) (requestData p i))
    (hd : ∀ p : Params, p.wf = true → (requestData p i).length ≤ 255) : Statement i := by
  intro p hp _
  have := hd p hp
  rw [h, requestPayload_length]
  exact ⟨by omega, by omega, rfl⟩

/-- A response payload whose data are at most 255 bytes. -/
theorem of_response {i : Instr} {a cc : Byte} {data : Bytes}
    (h : ∀ p : Params, encode p i = responsePayload a (codeOf p i.opOf) data cc)
    (hd : i.wf = true → data.length ≤ 255) : Statement i := by
  intro p _ hi
  have := hd hi
  rw [h, responsePayload_length]
  exact ⟨by omega, by omega, rfl⟩

theorem startMeasurement : Statement .startMeasurement :=
  of_request (fun _ => rfl) fun _ _ => by simp [requestData, Config.startData]

theorem stopMeasurement : Statement .stopMeasurement :=
  of_request (fun _ => rfl) fun _ _ => by simp [requestData]

theorem readMeasurement : Statement .readMeasurement :=
  of_request (fun _ => rfl) fun _ _ => by simp [requestData]

theorem readCleaningInterval : Statement .readCleaningInterval :=
  of_request (fun _ => rfl) fun p hp => by
    simp only [Params.wf, decide_eq_true_eq] at hp
    simp only [requestData]
    omega

theorem writeCleaningInterval (arg : Word) : Statement (.writeCleaningInterval arg) :=
  of_request (fun _ => rfl) fun p hp => by
    simp only [Params.wf, decide_eq_true_eq] at hp
    simp only [requestData, List.length_append, be32Enc_length]
    omega

theorem startFanCleaning : Statement .startFanCleaning :=
  of_request (fun _ => rfl) fun _ _ => by simp [requestData]

theorem deviceInfo (sel : Selector) : Statement (.deviceInfo sel) :=
  of_request (fun _ => rfl) fun _ _ => by simp [requestData]

theorem reset : Statement .reset :=
  of_request (fun _ => rfl) fun _ _ => by simp [requestData]

theorem startMeasurementRsp (address : Byte) (data : Bytes) (cc : Byte) :
    Statement (.startMeasurementRsp address data cc) :=
  of_response (fun _ => rfl) fun h => by simpa [Instr.wf] using h

theorem stopMeasurementRsp (address : Byte) (data : Bytes) (cc : Byte) :
    Statement (.stopMeasurementRsp address data cc) :=
  of_response (fun _ => rfl) fun h => by simpa [Instr.wf] using h

theorem readMeasurementRsp (address : Byte) (values : List Word) (cc : Byte) :
    Statement (.readMeasurementRsp address values cc) :=
  of_response (fun _ => rfl) fun h => by
    simp only [Instr.wf, decide_eq_true_eq] at h
    rw [length_flatMap_be32Enc, h]
    decide

theorem readCleaningIntervalRsp (address : Byte) (value : Word) (cc : Byte) :
    Statement (.readCleaningIntervalRsp address value cc) :=
  of_response (fun _ => rfl) fun _ => by simp

theorem writeCleaningIntervalRsp (address : Byte) (cc : Byte) :
    Statement (.writeCleaningIntervalRsp address cc) :=
  of_response (data := []) (fun _ => rfl) fun _ => by simp

theorem startFanCleaningRsp (address : Byte) (data : Bytes) (cc : Byte) :
    Statement (.startFanCleaningRsp address data cc) :=
  of_response (fun _ => rfl) fun h => by simpa [Instr.wf] using h

theorem deviceInfoRsp (address : Byte) (data : Bytes) (cc : Byte) :
    Statement (.deviceInfoRsp address data cc) :=
  of_response (fun _ => rfl) fun h => Nat.le_trans (of_decide_eq_true h) (by decide)

theorem resetRsp (address : Byte) (data : Bytes) (cc : Byte) : Statement (.resetRsp address data cc) :=
  of_response (fun _ => rfl) fun h => by simpa [Instr.wf] using h

end Sys2Proof.Laws.Encoding
end

