-- ==== Sys2Proof/Tests/Slice0.lean ====
section
/-! SUPPORT. The model's own tests: ill-formed terms the checks refuse, words decoded, single steps with the results
of 95_test_vectors.md, and for every obligation with hypotheses states and operands that meet them. -/

namespace Sys2Proof.Tests

open Sys2Proof.Machine

/-! ## States -/

/-- The default parameters with the reference codec of G5. -/
def refParams : Params := { defaultParams with codec := .reference }

/-- A codec that knows one stream and fails on everything else, in both directions. -/
def tableParams : Params := { defaultParams with codec := .table [([0x01], [0x7E, 0x7E])] [([0x7E, 0x7E], [0x01])] }

/-- The longest legal `CI_PREFIX`. -/
def longParams : Params := { defaultParams with ciPrefix := List.replicate 251 0xAA }

/-- Idle, with an operation presented. -/
def ready (i : Instr) : State := State.present { State.reset with params := refParams } i

/-- In phase `ph` of an operation. -/
def busy (i : Instr) (ph : Phase) : State :=
  { (ready i).start with phase := ph, issued := some (codeOf refParams i.opOf) }

/-- In phase `ph` of an operation, with a decoded payload in `RXP`. -/
def holding (i : Instr) (ph : Phase) (bs : Bytes) : State :=
  { busy i ph with rxp := Memory.writeBytes [] 0 bs, rxpLen := bs.length }

/-- In `P_RECV` with `n` bytes, all zero, already captured. -/
def captured (i : Instr) (n : Nat) (delims : Nat) (answers : List RxAnswer) : State :=
  { busy i .recv with
    rxs := (List.range n).map fun k => (k, (0 : Byte)), rxCnt := n, delims := delims, rxIn := answers }

/-- What one step leaves. -/
def after {α : Type} (s : State) (f : State → α) : Option α :=
  match step s with
  | .next t => some (f t)
  | .fault _ => none
  | .refused _ => none

/-- Why one step stops. -/
def stops (s : State) : Option (Fault ⊕ Refusal) :=
  match step s with
  | .next _ => none
  | .fault r => some (.inl r)
  | .refused r => some (.inr r)

/-- `STATUS` and `ERR`. -/
def verdict (s : State) : Status × ErrKind := (s.status, s.err)

/-! ## Well-formedness -/

theorem test_illformed_ci_prefix :
    Params.wf { defaultParams with ciPrefix := List.replicate 252 0 } = false := by decide +kernel

theorem test_illformed_codes : Params.distinct { defaultParams with codeFan := 0x80 } = false := by decide

theorem test_illformed_selectors : Params.distinct { defaultParams with selSerialNumber := 0x01 } = false := by decide

theorem test_illformed_responses :
    Instr.wf (.startMeasurementRsp 0 (List.replicate 256 0) 0) = false ∧
    Instr.wf (.stopMeasurementRsp 0 (List.replicate 256 0) 0) = false ∧
    Instr.wf (.startFanCleaningRsp 0 (List.replicate 256 0) 0) = false ∧
    Instr.wf (.deviceInfoRsp 0 (List.replicate 33 0) 0) = false ∧
    Instr.wf (.resetRsp 0 (List.replicate 256 0) 0) = false := by decide +kernel

theorem test_illformed_measurement :
    Instr.wf (.readMeasurementRsp 0 (List.replicate 9 0) 0) = false ∧
    Instr.wf (.readMeasurementRsp 0 (List.replicate 11 0) 0) = false := by decide

theorem test_wellformed_defaults : defaultParams.wf = true ∧ defaultParams.distinct = true ∧ longParams.wf = true := by
  decide +kernel

/-! ## Decoding: the words of R89, R90 and R94, written out byte by byte -/

theorem test_decode_startMeasurement : decodeTableWord 48 0x0000020103F9 = some .startMeasurement := by decide
theorem test_decode_stopMeasurement : decodeTableWord 32 0x000100FE = some .stopMeasurement := by decide
theorem test_decode_readMeasurement : decodeTableWord 32 0x000300FC = some .readMeasurement := by decide
theorem test_decode_readCleaningInterval : decodeTableWord 32 0x0080007F = some .readCleaningInterval := by decide
theorem test_decode_writeCleaningInterval :
    decodeTableWord 64 0x0080040102030471 = some (.writeCleaningInterval 0x01020304) := by decide
theorem test_decode_startFanCleaning : decodeTableWord 32 0x005600A9 = some .startFanCleaning := by decide
theorem test_decode_deviceInfo :
    decodeTableWord 40 0x00D001012D = some (.deviceInfo .productName) ∧
    decodeTableWord 40 0x00D001022C = some (.deviceInfo .articleCode) ∧
    decodeTableWord 40 0x00D001032B = some (.deviceInfo .serialNumber) := by decide
theorem test_decode_reset : decodeTableWord 32 0x00D3002C = some .reset := by decide

/-- V-OP2. -/
theorem test_decode_startMeasurementRsp :
    (decode defaultParams [0x00, 0x00, 0x00, 0x02, 0xAA, 0xBB, 0x98]).toOption =
      some (.startMeasurementRsp 0x00 [0xAA, 0xBB] 0x98) := by decide
/-- V-VAL11. -/
theorem test_decode_stopMeasurementRsp :
    (decode defaultParams [0x55, 0x01, 0x00, 0x00, 0xA9]).toOption = some (.stopMeasurementRsp 0x55 [] 0xA9) := by decide
/-- V-OP5. -/
theorem test_decode_readMeasurementRsp :
    (decode defaultParams [0x00, 0x03, 0x00, 0x28, 0x3F, 0x80, 0x00, 0x00, 0x40, 0x20, 0x00, 0x00, 0x80, 0x00, 0x00, 0x00,
      0x41, 0x24, 0x00, 0x00, 0x3F, 0x00, 0x00, 0x00, 0x42, 0xC8, 0x00, 0x00, 0x40, 0x40, 0x00, 0x00,
      0x7F, 0x80, 0x00, 0x00, 0x3F, 0x40, 0x00, 0x00, 0xBF, 0x80, 0x00, 0x00, 0x4A]).toOption =
      some (.readMeasurementRsp 0x00 [0x3F800000, 0x40200000, 0x80000000, 0x41240000, 0x3F000000, 0x42C80000,
        0x40400000, 0x7F800000, 0x3F400000, 0xBF800000] 0x4A) := by decide
/-- V-OP12. -/
theorem test_decode_readCleaningIntervalRsp :
    (decode defaultParams [0x00, 0x80, 0x00, 0x04, 0x00, 0x09, 0x3A, 0x80, 0xB8]).toOption =
      some (.readCleaningIntervalRsp 0x00 604800 0xB8) := by decide
/-- V-OP17. -/
theorem test_decode_writeCleaningIntervalRsp :
    (decode defaultParams [0x00, 0x80, 0x00, 0x00, 0x7F]).toOption = some (.writeCleaningIntervalRsp 0x00 0x7F) := by
  decide
/-- V-OP19. -/
theorem test_decode_startFanCleaningRsp :
    (decode defaultParams [0x00, 0x56, 0x00, 0x00, 0xA9]).toOption = some (.startFanCleaningRsp 0x00 [] 0xA9) := by decide
/-- V-OP20. -/
theorem test_decode_deviceInfoRsp :
    (decode defaultParams [0x00, 0xD0, 0x00, 0x05, 0x53, 0x50, 0x53, 0x33, 0x30, 0xD1]).toOption =
      some (.deviceInfoRsp 0x00 [0x53, 0x50, 0x53, 0x33, 0x30] 0xD1) := by decide
/-- R94: the row's data-length is at most 32. -/
theorem test_decode_deviceInfoRsp_bound :
    decodeTableWord 32 0x00D00020 = some (.deviceInfoRsp 0x00 (List.replicate 32 0x00) 0x00) ∧
    decodeTableWord 32 0x00D00021 = none := by decide
/-- V-OP25. -/
theorem test_decode_resetRsp :
    (decode defaultParams [0x00, 0xD3, 0x00, 0x00, 0x2C]).toOption = some (.resetRsp 0x00 [] 0x2C) := by decide

/-- DOC0's wrong checksum literal (C2), a short payload, an unknown command, and V-VAL8: no row of the table. -/
theorem test_decode_refuses :
    (decode defaultParams [0x00, 0x00, 0x02, 0x01, 0x03, 0xF3]).toOption = none ∧
    (decode defaultParams [0x00, 0x01, 0x00]).toOption = none ∧
    (decode defaultParams [0x00, 0x77, 0x00, 0x88]).toOption = none ∧
    (decode defaultParams [0x00, 0x01, 0x00, 0x01, 0x09, 0x09, 0xEB]).toOption = none := by decide

/-! ## Numbers -/

/-- V-CK1, V-CK3 to V-CK8, V-CK10 to V-CK12. -/
theorem test_checksum :
    checksum [] = 0xFF ∧ checksum [0xFF] = 0x00 ∧ checksum [0x80, 0x80] = 0xFF ∧ checksum [0xFF, 0x01] = 0xFF ∧
    checksum [0xFF, 0xFF] = 0x01 ∧ checksum [0xFF, 0xFF, 0xFF] = 0x02 ∧ checksum [0x12, 0x34, 0x56] = 0x63 ∧
    checksum [0x00, 0x80, 0x01, 0x00] = 0x7E ∧ checksum [0x00, 0x00, 0x02, 0x01, 0x03] = 0xF9 ∧
    checksum [0x00, 0x00, 0x02, 0x01, 0x03, 0xF9] = 0x00 := by decide

/-- V-BE4, V-BE6, V-BE9, V-BE11. -/
theorem test_big_endian :
    be32Enc 0x01020304 = [0x01, 0x02, 0x03, 0x04] ∧ be32Enc 0x80000000 = [0x80, 0x00, 0x00, 0x00] ∧
    (be32Dec 0x80 0x00 0x00 0x00).toNat = 2147483648 ∧ be32Dec 0x78 0x56 0x34 0x12 = 0x78563412 := by decide

/-- W3, V-TX9, and `RefDecode`'s failures of V-RX4 and V-RX13. -/
theorem test_reference_codec :
    refEncode [0x00, 0x80, 0x04, 0x11, 0x13, 0x7D, 0x7E, 0x5C] =
      [0x7E, 0x00, 0x80, 0x04, 0x7D, 0x31, 0x7D, 0x33, 0x7D, 0x5D, 0x7D, 0x5E, 0x5C, 0x7E] ∧
    refEncode [0x00, 0x80, 0x04, 0x00, 0x00, 0x00, 0x7E, 0xFD] =
      [0x7E, 0x00, 0x80, 0x04, 0x00, 0x00, 0x00, 0x7D, 0x5E, 0xFD, 0x7E] ∧
    refDecode [0x7E, 0x7E] = some [] ∧ refDecode [0x7E, 0x00, 0x7D, 0x00, 0x7E] = none ∧
    refDecode [0x55, 0xAA, 0x7E, 0x00, 0x01, 0x00, 0x00, 0xFE, 0x7E] = none := by decide

/-! ## Requests: what `P_BUILD` leaves in `TXP` (V-TX1 to V-TX15) -/

theorem test_build_startMeasurement :
    after (busy .startMeasurement .build) State.request = some (some [0x00, 0x00, 0x02, 0x01, 0x03, 0xF9]) := by decide
theorem test_build_stopMeasurement :
    after (busy .stopMeasurement .build) State.request = some (some [0x00, 0x01, 0x00, 0xFE]) := by decide
theorem test_build_readMeasurement :
    after (busy .readMeasurement .build) State.request = some (some [0x00, 0x03, 0x00, 0xFC]) := by decide
/-- V-TX4 with `CI_PREFIX = [00]` (G4). -/
theorem test_build_readCleaningInterval :
    after { busy .readCleaningInterval .build with params := { defaultParams with ciPrefix := [0x00] } } State.request =
      some (some [0x00, 0x80, 0x01, 0x00, 0x7E]) := by decide
/-- V-TX10. -/
theorem test_build_writeCleaningInterval :
    after (busy (.writeCleaningInterval 0x11137D7E) .build) State.request =
      some (some [0x00, 0x80, 0x04, 0x11, 0x13, 0x7D, 0x7E, 0x5C]) := by decide
theorem test_build_startFanCleaning :
    after (busy .startFanCleaning .build) State.request = some (some [0x00, 0x56, 0x00, 0xA9]) := by decide
theorem test_build_deviceInfo :
    after (busy (.deviceInfo .articleCode) .build) State.request = some (some [0x00, 0xD0, 0x01, 0x02, 0x2C]) := by decide
theorem test_build_reset :
    after (busy .reset .build) State.request = some (some [0x00, 0xD3, 0x00, 0x2C]) := by decide

/-! ## Results: what `P_EXTRACT` leaves (V-OP2 to V-OP25) -/

theorem test_extract_startMeasurement :
    after (holding .startMeasurement .extract [0x00, 0x00, 0x00, 0x02, 0xAA, 0xBB, 0x98]) verdict =
      some (.ok, .noError) := by decide
theorem test_extract_stopMeasurement :
    after (holding .stopMeasurement .extract [0x00, 0x01, 0x00, 0x00, 0xFE]) verdict = some (.ok, .noError) := by decide
/-- V-OP6: a signalling NaN, a subnormal and a negative NaN pass unchanged. -/
theorem test_extract_readMeasurement :
    after (holding .readMeasurement .extract ([0x00, 0x03, 0x00, 0x28, 0x7F, 0xA0, 0x00, 0x01, 0x00, 0x00, 0x00, 0x01,
      0xFF, 0xFF, 0xFF, 0xFF] ++ List.replicate 28 0x00 ++ [0xB7])) State.f =
      some (some ([0x7FA00001, 0x00000001, 0xFFFFFFFF] ++ List.replicate 7 0)) := by decide
/-- V-OP14. -/
theorem test_extract_readCleaningInterval :
    after (holding .readCleaningInterval .extract [0x00, 0x80, 0x00, 0x04, 0xFF, 0xFF, 0xFF, 0xFF, 0x7F]) State.ci =
      some (some 4294967295) := by decide
/-- V-OP18. -/
theorem test_extract_writeCleaningInterval :
    after (holding (.writeCleaningInterval 1) .extract [0x00, 0x80, 0x00, 0x01, 0x07, 0x77]) verdict =
      some (.err, .invalidResponse) := by decide
theorem test_extract_startFanCleaning :
    after (holding .startFanCleaning .extract [0x00, 0x56, 0x00, 0x00, 0xA9]) verdict = some (.ok, .noError) := by decide
/-- V-OP24: a zero inside the data. -/
theorem test_extract_deviceInfo :
    after (holding (.deviceInfo .articleCode) .extract [0x00, 0xD0, 0x00, 0x03, 0x41, 0x00, 0x42, 0xA9])
      (fun t => (t.info, t.infoLen)) =
      some (some ([0x41, 0x00, 0x42] ++ List.replicate 29 0x00), some 3) := by decide
theorem test_extract_reset :
    after (holding .reset .extract [0x00, 0xD3, 0x00, 0x00, 0x2C]) verdict = some (.ok, .noError) := by decide

/-! ## The other phases -/

/-- V-TX9 written, then V-TX17: a failed write of which three bytes went out. -/
theorem test_send :
    after { busy (.writeCleaningInterval 0x7E) .send with stream := [0x7E, 0x00, 0x7E], txIn := [.ok] }
      (fun t => (t.phase, t.wire)) = some (.recv, [0x7E, 0x00, 0x7E]) ∧
    after { busy .startMeasurement .send with stream := [0x7E, 0x00, 0x00, 0x02, 0x7E], txIn := [.fail 3] }
      (fun t => (verdict t, t.wire, t.polls)) = some ((.err, .writeError), [0x7E, 0x00, 0x00], 0) := by decide

/-- R231, R211: a reset in `P_SEND` leaves a prefix of the stream sent, and polls nothing. -/
theorem test_reset_in_send :
    after { busy .startMeasurement .send with
      stream := [0x7E, 0x00, 0x00, 0x02, 0x7E], txIn := [.fail 3, .ok], host := [.reset] }
      (fun t => (verdict t, t.phase, t.wire, t.txIn, t.polls)) =
      some ((.idle, .noError), .idle, [0x7E, 0x00, 0x00], [.ok], 0) := by decide

/-- R231: a reset in `P_RECV` sends nothing more. -/
theorem test_reset_in_receive :
    after { captured .stopMeasurement 3 1 [.byte 0x7E] with wire := [0x7E], txIn := [.fail 3], host := [.reset] }
      (fun t => (t.rxCnt, t.wire, t.txIn, t.rxIn)) = some (0, [0x7E], [.fail 3], [.byte 0x7E]) := by decide

/-- R23, R230: *start* with `ARG` never written is accepted; what `ARG` then holds nobody can say. -/
theorem test_start_unwritten :
    after { State.reset with op := some .writeCleaningInterval, host := [.start] }
      (fun t => (t.status, t.phase, t.op, t.arg.isSome, t.sel)) =
      some (.busy, .build, some .writeCleaningInterval, true, none) := by decide

/-- V-TX16: the codec refuses the request; nothing is written. -/
theorem test_encode_fails :
    after { busy .stopMeasurement .encode with
      params := tableParams, txp := Memory.writeBytes [] 0 [0x00, 0x01, 0x00, 0xFE], txpLen := 4 }
      (fun t => (verdict t, t.writes)) = some ((.err, .framingError), 0) := by decide

/-- V-RX2 and V-RX10: would-block, then a failure. -/
theorem test_receive_would_block :
    after (captured .stopMeasurement 3 1 [.wouldBlock, .fail]) (fun t => (t.phase, t.rxCnt, t.polls, t.taken)) =
      some (.recv, 3, 1, 0) ∧
    after (captured .stopMeasurement 3 1 [.fail]) verdict = some (.err, .readError) := by decide

/-- V-RX5 and V-RX6: the 600th byte. -/
theorem test_receive_cap :
    after (captured .stopMeasurement 599 1 [.byte 0x7E]) (fun t => (t.phase, t.rxCnt)) = some (.decode, 600) ∧
    after (captured .stopMeasurement 599 1 [.byte 0x00]) verdict = some (.err, .invalidFrame) := by decide +kernel

/-- V-RX14 to V-RX16, and the empty payload of V-RX12. -/
theorem test_check :
    after (holding .stopMeasurement .check [0x00, 0x01, 0x00, 0x00, 0xFD]) verdict = some (.err, .checksumFailed) ∧
    after (holding .stopMeasurement .check [0xFF]) State.phase = some .validate ∧
    after (holding .stopMeasurement .check [0x00]) verdict = some (.err, .checksumFailed) ∧
    after (holding .stopMeasurement .check []) verdict = some (.err, .checksumFailed) := by decide

/-- V-VAL2, V-VAL4 to V-VAL11. -/
theorem test_validate :
    after (holding .stopMeasurement .validate [0x00, 0x01, 0x00, 0xFE]) verdict = some (.err, .invalidResponse) ∧
    after (holding .stopMeasurement .validate [0x00, 0x00, 0x00, 0x00, 0xFF]) verdict = some (.err, .invalidResponse) ∧
    after (holding .stopMeasurement .validate [0x00, 0x01, 0x43, 0x00, 0xBB]) verdict = some (.err, .statusError) ∧
    after (holding .stopMeasurement .validate [0x00, 0x01, 0x00, 0x01, 0xFD]) verdict = some (.err, .invalidResponse) ∧
    after (holding .stopMeasurement .validate [0x00, 0x00, 0x02, 0x00, 0xFD]) verdict = some (.err, .invalidResponse) ∧
    after (holding .stopMeasurement .validate [0x00, 0x01, 0x02, 0x07, 0xF5]) verdict = some (.err, .statusError) ∧
    after (holding .stopMeasurement .validate [0x55, 0x01, 0x00, 0x00, 0xA9]) State.phase = some .extract := by decide

/-- V-ST2: *start* while `BUSY`. -/
theorem test_host_stops :
    stops { busy .reset .recv with host := [.start] } = some (.inr .startWhileBusy) := by decide

/-- V-ST1 with R21: a result register read after reset gives no value, not even the one read before, and the read is
a fault of the host's program. -/
theorem test_host_reads_none :
    after { State.reset with host := [.read .ci], hostRd := some (.word 0) } (fun t => (t.hostRd, t.hostFaults, verdict t)) =
      some (none, 1, (.idle, .noError)) ∧
    after { State.reset with ci := some 604800, host := [.read .ci] } (fun t => (t.hostRd, t.hostFaults)) =
      some (some (.word 604800), 0) := by decide

/-! ## Witnesses: for every obligation with hypotheses, states and operands that meet them -/

theorem witness_DecodeOfEncodeIsTheInstruction :
    longParams.wf = true ∧ longParams.distinct = true ∧ Instr.wf (.deviceInfoRsp 0xFF (List.replicate 32 0x7E) 0) = true ∧
    Instr.wf (.resetRsp 0xFF (List.replicate 255 0x7E) 0) = true ∧
    Instr.wf (.readMeasurementRsp 0 (List.replicate 10 0) 0) = true ∧ Instr.wf (.writeCleaningInterval 0xFFFFFFFF) = true := by
  decide +kernel

theorem witness_EncodeOfDecodeIsThePayload :
    decode defaultParams [0x00, 0x80, 0x00, 0x00, 0x7F] = .ok (.writeCleaningIntervalRsp 0x00 0x7F) := rfl

theorem witness_NoPayloadIsBothRequestAndResponse :
    decodeRequest defaultParams [0x00, 0xD0, 0x01, 0x01, 0x2D] = .ok (.deviceInfo .productName) := rfl

theorem witness_RequestPayloadsByteByByte :
    (List.replicate 251 (0xAA : Byte)).length ≤ 251 ∧ ([] : Bytes).length ≤ 251 := by decide +kernel

theorem witness_DataLengthNeverTruncates :
    longParams.wf = true ∧ defaultParams.wf = true ∧ Instr.isRequest (.writeCleaningInterval 0) = true := by decide +kernel

theorem witness_ChecksumLaws : ([0x00, 0xFF] : Bytes) ≠ [] ∧ byteSum [0x00, 0xFF] % 256 = 255 := by decide

theorem witness_ChecksumDetectsOneChangedByte :
    (0x00 : Byte) ≠ 0xFF ∧ List.Perm ([0x01, 0x02] : Bytes) [0x02, 0x01] := by decide

theorem witness_BigEndianStoreAndLoad :
    (3 < 4 ∨ 4 + 4 ≤ 3) ∧ (8 < 4 ∨ 4 + 4 ≤ 8) ∧
    let m : Memory := [(4, 0xFF), (5, 0x00), (6, 0x00), (7, 0x01)]
    m.read 4 = some 0xFF ∧ m.read (4 + 1) = some 0x00 ∧ m.read (4 + 2) = some 0x00 ∧ m.read (4 + 3) = some 0x01 := by
  decide

theorem witness_StepsKeepBuffersCanonical :
    (captured .reset 3 1 [.byte 0x7E]).txp.wf ∧ (captured .reset 3 1 [.byte 0x7E]).rxs.wf ∧
    (captured .reset 3 1 [.byte 0x7E]).rxp.wf ∧ ∃ t, step (captured .reset 3 1 [.byte 0x7E]) = .next t := by
  refine ⟨by decide, by decide, by decide, _, rfl⟩

theorem witness_EngineResetAbandonsAnyPhase :
    { busy .reset .recv with host := [.reset] }.host = .reset :: [] ∧
    { busy .reset .recv with host := [.reset] }.phase = .recv ∧
    { busy .reset .send with host := [.reset] }.host = .reset :: [] ∧
    { busy .reset .send with host := [.reset] }.phase = .send := by decide

theorem witness_ResetInSendLeavesAnyPrefix :
    { busy .reset .send with host := [.reset], txIn := [.fail 0] }.host = .reset :: [] ∧
    { busy .reset .send with host := [.reset], txIn := [.fail 0] }.phase = .send ∧
    { busy .reset .send with host := [.reset], txIn := [.fail 0] }.txNext = .fail 0 ∧
    { busy .reset .send with host := [.reset], txIn := [.ok] }.txNext = .ok := by decide

/-- After reset, and with `OP` written but not its operand. -/
theorem witness_StartWithUnwrittenOperandsRuns :
    { State.reset with host := [.start] }.host = .start :: [] ∧ State.reset.status ≠ .busy ∧ State.reset.phase = .idle ∧
    State.reset.presented = none ∧ { State.reset with op := some .deviceInfo, arg := some 0 }.presented = none ∧
    { State.reset with op := some .writeCleaningInterval, sel := some .articleCode }.presented = none := by decide

theorem witness_HostMovesWhileBusyAreRefused :
    (busy .reset .recv).status = .busy ∧ State.reset.status ≠ .busy ∧ (State.raise State.reset .readError).status ≠ .busy ∧
    { busy .reset .recv with host := [.start] }.host = .start :: [] ∧
    (ready .reset).status ≠ .busy ∧ (ready .reset).phase = .idle ∧ (ready .reset).presented.isSome = true ∧
    { State.reset with host := [.writeSel .serialNumber] }.host = .writeSel .serialNumber :: [] := by decide

theorem witness_HostReadsDeliverOrFault :
    { State.reset with ci := some 0 }.ci = some 0 ∧ State.reset.ci = none ∧
    { State.reset with f := some (List.replicate 10 0) }.f = some (List.replicate 10 0) ∧
    (List.replicate 10 (0 : Word))[(9 : Fin 10).val]? = some 0 ∧ State.reset.f = none ∧
    { State.reset with info := some (List.replicate 32 0) }.info = some (List.replicate 32 0) ∧
    (List.replicate 32 (0 : Byte))[(31 : Fin 32).val]? = some 0 ∧ State.reset.info = none ∧
    { State.reset with infoLen := some 32 }.infoLen = some 32 ∧ State.reset.infoLen = none := by decide

theorem witness_EveryOperationStarts :
    Instr.isRequest (.deviceInfo .serialNumber) = true ∧ State.reset.phase = .idle ∧ State.reset.status ≠ .busy ∧
    Instr.opOf (.deviceInfo .serialNumber) ≠ .writeCleaningInterval ∧ Instr.opOf .reset ≠ .deviceInfo := by decide

theorem witness_NothingSurvivesAStart :
    let s := { State.raise State.reset .emptyResult with issued := some 0x03, delims := 2, acc := 0xFF }
    let s' := { State.reset with ci := some 5, rxpLen := 9 }
    s.phase = .idle ∧ s'.phase = .idle ∧ s.status ≠ .busy ∧ s'.status ≠ .busy ∧ s.params = s'.params ∧ s.op = s'.op ∧
    s.arg = s'.arg ∧ s.sel = s'.sel ∧ s.host = s'.host ∧ s.hostRd = s'.hostRd ∧ s.txIn = s'.txIn ∧ s.rxIn = s'.rxIn ∧
    s.writes = s'.writes ∧ s.polls = s'.polls ∧ s.taken = s'.taken ∧ s.wire = s'.wire ∧ s.draws = s'.draws ∧
    s.hostFaults = s'.hostFaults ∧ s ≠ s' := by
  decide

theorem witness_StepRunsThePresentedOperation :
    (ready .reset).presented = some .reset ∧ (ready .reset).host = [] ∧ (ready .reset).phase = .idle ∧
    (busy .reset .decode).presented = some .reset ∧ (busy .reset .decode).phase = .decode ∧
    (busy .reset .build).phase = .build ∧ { ready .reset with host := [.start] }.host = .start :: [] ∧
    (ready .reset).status ≠ .busy := by decide

theorem witness_StepRunsTheDecodedResponse :
    (holding .reset .check [0x00, 0xD3, 0x00, 0x00, 0x2C]).host = [] ∧
    (holding .reset .check [0x00, 0xD3, 0x00, 0x00, 0x2C]).phase = .check ∧
    (holding .reset .extract [0x00, 0xD3, 0x00, 0x00, 0x2C]).phase = .extract ∧
    (holding .reset .check [0x00, 0xD3, 0x00, 0x00, 0x2C]).presented = some .reset ∧
    (holding .reset .check [0x00, 0xD3, 0x00, 0x00, 0x2C]).payload = some [0x00, 0xD3, 0x00, 0x00, 0x2C] ∧
    decodeResponseFor refParams .reset [0x00, 0xD3, 0x00, 0x00, 0x2C] = .ok (.resetRsp 0x00 [] 0x2C) :=
  ⟨rfl, rfl, rfl, rfl, by decide, rfl⟩

/-- A payload that is no row: V-OP23's, with 33 data bytes, and one with a non-zero state. -/
theorem witness_StepRunsTheDecodedResponse_no_row :
    let bs := [0x00, 0xD0, 0x00, 0x21] ++ List.replicate 33 0x41 ++ [0xAD]
    let s := holding (.deviceInfo .articleCode) .extract bs
    s.host = [] ∧ s.phase = .extract ∧ s.presented = some (.deviceInfo .articleCode) ∧ s.payload = some bs ∧
    decodeResponseFor s.params .deviceInfo bs = .error .length ∧ 37 < bs.length ∧
    decodeResponseFor s.params .deviceInfo [0x00, 0xD0, 0x43, 0x00, 0xEC] = .error .state :=
  ⟨rfl, rfl, rfl, by decide +kernel, rfl, by decide, rfl⟩

theorem witness_TableWordRunsNext :
    decodeTableWord 32 0x00D3002C = some .reset ∧ decodeTableWord 32 0xFF030028 =
      some (.readMeasurementRsp 0xFF (List.replicate 10 0) 0) := by decide

theorem witness_BuildWritesTheRequest :
    Instr.isRequest (.writeCleaningInterval 0) = true ∧
    { busy (.writeCleaningInterval 0) .build with params := longParams }.phase = .build ∧
    { busy (.writeCleaningInterval 0) .build with params := longParams }.params.wf = true := by decide +kernel

theorem witness_WriteRequestCarriesArg :
    (busy (.writeCleaningInterval 0xFFFFFFFF) .build).phase = .build ∧
    ∃ t, exec (.writeCleaningInterval 0xFFFFFFFF) (busy (.writeCleaningInterval 0xFFFFFFFF) .build) = .next t :=
  ⟨rfl, _, rfl⟩

theorem witness_EncodeStepHandsOverTheRequest :
    Instr.isRequest .reset = true ∧ (busy .reset .encode).phase = .encode ∧ (busy .reset .encode).request = some [] ∧
    codecEncode tableParams.codec [] = none ∧ codecEncode tableParams.codec [0x01] = some [0x7E, 0x7E] ∧
    codecEncode refParams.codec [] = some [0x7E, 0x7E] := by decide

theorem witness_SendWritesTheStreamOnce :
    Instr.isRequest .reset = true ∧ (busy .reset .send).phase = .send ∧
    { busy .reset .send with txIn := [.ok] }.txNext = .ok ∧ { busy .reset .send with txIn := [.fail 0] }.txNext = .fail 0 := by
  decide

theorem witness_ReceiveStepMakesOnePoll :
    Instr.isRequest .reset = true ∧ (captured .reset 0 0 []).phase = .recv ∧ (captured .reset 0 0 []).rxCnt < 600 ∧
    (captured .reset 599 1 []).rxCnt < 600 ∧ (captured .reset 599 1 [.byte 0x7E]).rxNext = .byte 0x7E ∧
    (captured .reset 0 0 [.wouldBlock]).rxNext = .wouldBlock ∧ (captured .reset 599 1 [.fail]).rxNext = .fail := by
  decide +kernel

theorem witness_DecodeStepTakesTheCapturedStream :
    Instr.isRequest .reset = true ∧ (busy .reset .decode).phase = .decode ∧ (busy .reset .decode).captured = some [] ∧
    codecDecode tableParams.codec [] = none ∧ codecDecode tableParams.codec [0x7E, 0x7E] = some [0x01] ∧
    codecDecode refParams.codec [] = none := by decide

theorem witness_CheckComparesTheLastByte :
    (holding .reset .check [0xFF]).phase = .check ∧ (holding .reset .check [0xFF]).payload = some [0xFF] ∧
    (∃ cc, ([0xFF] : Bytes).getLast? = some cc ∧ cc.toNat = 255 - byteSum ([0xFF] : Bytes).dropLast % 256) ∧
    (∀ cc, ([0x00] : Bytes).getLast? = some cc → cc.toNat ≠ 255 - byteSum ([0x00] : Bytes).dropLast % 256) ∧
    (∀ cc, ([] : Bytes).getLast? = some cc → cc.toNat ≠ 255 - byteSum ([] : Bytes).dropLast % 256) := by
  refine ⟨rfl, by decide, ⟨0xFF, by decide⟩, ?_, ?_⟩ <;> (intro cc h; cases h; try decide)

theorem witness_ValidateMakesFourChecksInOrder :
    (holding .reset .validate [0x00]).phase = .validate ∧ (holding .reset .validate [0x00]).payload = some [0x00] ∧
    (holding .reset .validate [0x00]).issued = some 0xD3 := by decide

/-- The clauses of the five extract statements at the ends of their ranges. -/
theorem witness_Extracts :
    validateKind 0xD3 [0x00, 0xD3, 0x00, 0x00, 0x2C] = none ∧
    validateKind 0x03 ([0x00, 0x03, 0x00, 0x28] ++ List.replicate 40 0x00 ++ [0xD4]) = none ∧
    validateKind 0x03 [0x00, 0x03, 0x00, 0x00, 0xFC] = none ∧
    validateKind 0x03 ([0x00, 0x03, 0x00, 0x27] ++ List.replicate 39 0x00 ++ [0xD5]) = none ∧
    validateKind 0x80 [0x00, 0x80, 0x00, 0x04, 0x00, 0x00, 0x00, 0x00, 0x7B] = none ∧
    validateKind 0x80 [0x00, 0x80, 0x00, 0x03, 0x01, 0x02, 0x03, 0x76] = none ∧
    validateKind 0x80 [0x00, 0x80, 0x00, 0x00, 0x7F] = none ∧
    validateKind 0xD0 ([0x00, 0xD0, 0x00, 0x20] ++ List.replicate 32 0x00 ++ [0x0F]) = none ∧
    validateKind 0xD0 ([0x00, 0xD0, 0x00, 0x21] ++ List.replicate 33 0x41 ++ [0xAD]) = none := by decide +kernel

/-- The states those payloads are held in: any phase of any operation on any payload (for every statement about
`P_CHECK`, `P_VALIDATE`, `P_EXTRACT` and the response rows). -/
theorem witness_HoldingStates (i : Instr) (h : i.isRequest = true) (ph : Phase) (bs : Bytes) :
    (holding i ph bs).phase = ph ∧ (holding i ph bs).payload = some bs ∧ (holding i ph bs).op = some i.opOf ∧
    (holding i ph bs).presented = some i ∧ (holding i ph bs).issued = some (codeOf refParams i.opOf) ∧
    (holding i ph bs).host = [] ∧ (holding i ph bs).status = .busy := by
  have hb : (holding i ph bs).payload = some bs := payload_of_writeBytes (m := []) (bs := bs) rfl rfl
  have hp : (holding i ph bs).presented = some i := by cases i <;> first | rfl | cases h
  have hh : (holding i ph bs).host = [] := by cases i <;> rfl
  exact ⟨rfl, hb, (State.presented_spec hp).2, hp, rfl, hh, rfl⟩

theorem witness_ResponseRows :
    Instr.isRequest (.deviceInfoRsp 0 [] 0) = false ∧ Instr.wf (.deviceInfoRsp 0 (List.replicate 32 0) 0) = true ∧
    Instr.wf (.startMeasurementRsp 0 (List.replicate 255 0) 0) = true ∧
    (busy (.deviceInfo .productName) .check).phase = .check ∧
    (busy (.deviceInfo .productName) .validate).issued = some 0xD0 ∧
    (busy (.deviceInfo .productName) .extract).phase = .extract ∧
    (busy (.deviceInfo .productName) .extract).op = some .deviceInfo ∧
    (List.replicate 32 (0 : Byte)).length ≤ 32 ∧ 32 < (List.replicate 33 (0 : Byte)).length ∧
    (List.replicate 255 (0 : Byte)).length ≤ 255 ∧ (List.replicate 10 (0 : Word)).length = 10 := by decide +kernel

theorem witness_ResponseRowsRefusedElsewhere :
    Instr.isRequest (.resetRsp 0 [] 0) = false ∧ (busy .reset .recv).op = some .reset ∧ (ready .reset).op = some .reset := by
  decide

theorem witness_ErrorKindsByPhase :
    Undisturbed (captured .reset 0 0 [.fail]) ∧
    ∃ t, step (captured .reset 0 0 [.fail]) = .next t ∧ t.status = .err := ⟨⟨rfl, rfl⟩, _, rfl, rfl⟩

/-- A state in `P_CHECK` that meets the invariant, whatever the decoded payload. -/
theorem holding_inv (i : Instr) (h : i.isRequest = true) (bs : Bytes) : Inv (holding i .check bs) := by
  have hp : (holding i .check bs).presented = some i := by
    cases i <;> first | rfl | cases h
  have hpl : (holding i .check bs).payload = some bs := payload_of_writeBytes (m := []) (bs := bs) rfl rfl
  have ho := (State.presented_spec hp).2
  have hc : (holding i .check bs).params = refParams := by cases i <;> rfl
  have ht : (holding i .check bs).taken = 0 := by cases i <;> rfl
  exact {
    params := by rw [hc]; rfl
    txpWf := List.Pairwise.nil
    rxsWf := List.Pairwise.nil
    rxpWf := Memory.writeBytes_wf 0 bs List.Pairwise.nil
    txpIn := fun c h => (List.not_mem_nil h).elim
    rxsIn := fun c h => (List.not_mem_nil h).elim
    txpHeld := rfl
    rxsHeld := rfl
    rxpHeld := by rw [hpl]; rfl
    txpCap := Nat.zero_le _
    idleIff := ⟨fun h => Phase.noConfusion h, fun h => absurd rfl h⟩
    errIff := ⟨fun h => Status.noConfusion h, fun h => absurd rfl h⟩
    noResult := fun _ => ⟨rfl, rfl, rfl, rfl⟩
    fTen := fun v h => nomatch (show none = some v from h)
    infoFull := fun v h => nomatch (show none = some v from h)
    infoLenCap := fun n h => nomatch (show none = some n from h)
    infoBoth := rfl
    busyPresents := fun _ => by rw [hp]; rfl
    issuedCode := fun _ _ => ⟨i.opOf, ho, by rw [hc]; rfl⟩
    delimsCap := Nat.zero_le _
    rxCntCap := Nat.zero_le _
    recvOpen := fun h => Phase.noConfusion h
    recvCounted := fun h => Phase.noConfusion h
    frameDone := fun h => Phase.noConfusion h
    extractValid := fun h => Phase.noConfusion h
    takenLe := by rw [ht]; exact Nat.zero_le _ }

theorem witness_ResponseVerdictInPriorityOrder :
    Inv (holding (.deviceInfo .serialNumber) .check [0x00, 0xD0, 0x00, 0x00, 0x2F]) ∧
    (holding (.deviceInfo .serialNumber) .check [0x00, 0xD0, 0x00, 0x00, 0x2F]).host = [] ∧
    (holding (.deviceInfo .serialNumber) .check [0x00, 0xD0, 0x00, 0x00, 0x2F]).presented =
      some (.deviceInfo .serialNumber) ∧
    (holding (.deviceInfo .serialNumber) .check [0x00, 0xD0, 0x00, 0x00, 0x2F]).payload =
      some [0x00, 0xD0, 0x00, 0x00, 0x2F] ∧
    (holding (.deviceInfo .serialNumber) .check [0x00, 0xD0, 0x00, 0x00, 0x2F]).issued = some 0xD0 :=
  ⟨holding_inv _ rfl _, rfl, rfl, by decide, rfl⟩

/-- For `StepsKeepTheInvariant`, `RunningEngineAlwaysSteps`, `PhasesFollowTheirOrder`, `OperandsAreFixedWhileBusy`,
`PortsAreUsedInTheirPhasesOnly` and `ParametersNeverChange`. -/
theorem witness_Invariant :
    Inv (holding .reset .check [0x00, 0xD3, 0x00, 0x00, 0x2C]) ∧
    Undisturbed (holding .reset .check [0x00, 0xD3, 0x00, 0x00, 0x2C]) ∧
    ∃ t, step (holding .reset .check [0x00, 0xD3, 0x00, 0x00, 0x2C]) = .next t ∧ t.phase ≠ .idle :=
  ⟨holding_inv _ rfl _, ⟨rfl, rfl⟩, _, rfl, by decide⟩

/-- For `EngineNeverReadsNone`: a state of a run, and one that is none, where a phase action does fault. -/
theorem witness_EngineNeverReadsNone :
    Inv { holding .reset .check [] with host := [.read .infoLen] } ∧
    stops { busy .reset .validate with rxpLen := 1 } = some (.inl .engineReadsNone) :=
  ⟨{ holding_inv .reset rfl [] with }, by decide⟩

/-- A state in `P_EXTRACT` that meets the invariant. -/
theorem extracting_inv : Inv { holding .reset .check [0x00, 0xD3, 0x00, 0x00, 0x2C] with phase := .extract } := by
  have h := holding_inv .reset rfl [0x00, 0xD3, 0x00, 0x00, 0x2C]
  exact { h with
    idleIff := ⟨fun h => Phase.noConfusion h, fun h => absurd rfl h⟩
    issuedCode := fun _ _ => ⟨.reset, rfl, rfl⟩
    recvOpen := fun h => Phase.noConfusion h
    recvCounted := fun h => Phase.noConfusion h
    frameDone := fun h => Phase.noConfusion h
    extractValid := fun _ => ⟨[0x00, 0xD3, 0x00, 0x00, 0x2C], 0xD3, by decide, rfl, by decide⟩ }

theorem witness_SuccessHoldsOnlyItsOwnResult :
    Inv { holding .reset .check [0x00, 0xD3, 0x00, 0x00, 0x2C] with phase := .extract } ∧
    Undisturbed { holding .reset .check [0x00, 0xD3, 0x00, 0x00, 0x2C] with phase := .extract } ∧
    ∃ t, step { holding .reset .check [0x00, 0xD3, 0x00, 0x00, 0x2C] with phase := .extract } = .next t ∧
      t.status = .ok := ⟨extracting_inv, ⟨rfl, rfl⟩, _, rfl, rfl⟩

/-- The longest frame: 600 bytes, the second delimiter the last. -/
def longFrame : List RxAnswer :=
  .wouldBlock :: .byte 0x7E :: (List.replicate 598 (.byte 0x00) ++ [.byte 0x7E])

theorem witness_ReceiveCapturesUpToTheSecondDelimiter :
    Undisturbed (captured .reset 0 0 (longFrame ++ [])) ∧ (captured .reset 0 0 (longFrame ++ [])).presented.isSome = true ∧
    (captured .reset 0 0 (longFrame ++ [])).phase = .recv ∧ .fail ∉ longFrame ∧
    longFrame.getLast? = some (.byte Config.delim) ∧ (rxBytes longFrame).count Config.delim = 2 ∧
    (rxBytes longFrame).length ≤ 600 :=
  ⟨⟨rfl, rfl⟩, rfl, rfl, by decide +kernel, by decide +kernel, by decide +kernel, by decide +kernel⟩

theorem witness_ReceiveFailsAtTheCap :
    Undisturbed (captured .reset 0 0 (List.replicate 600 (.byte 0x00) ++ [.byte 0x7E])) ∧
    (captured .reset 0 0 (List.replicate 600 (.byte 0x00) ++ [.byte 0x7E])).presented.isSome = true ∧
    (captured .reset 0 0 (List.replicate 600 (.byte 0x00) ++ [.byte 0x7E])).phase = .recv ∧
    .fail ∉ List.replicate 600 (RxAnswer.byte 0x00) ∧
    (List.replicate 600 (RxAnswer.byte 0x00)).getLast? ≠ some .wouldBlock ∧
    (rxBytes (List.replicate 600 (.byte 0x00))).count Config.delim < 2 ∧
    (rxBytes (List.replicate 600 (.byte 0x00))).length = 600 :=
  ⟨⟨rfl, rfl⟩, rfl, rfl, by decide +kernel, by decide +kernel, by decide +kernel, by decide +kernel⟩

theorem witness_WouldBlockHangsTheOperation :
    Undisturbed (captured .reset 0 0 (List.replicate 2 .wouldBlock ++ [])) ∧
    (captured .reset 0 0 (List.replicate 2 .wouldBlock ++ [])).presented.isSome = true := ⟨⟨rfl, rfl⟩, rfl⟩

/-- Everything `OperationRunsToItsResult` assumes, for P1 without its would-block. -/
theorem witness_OperationRunsToItsResult :
    let s := { ready .startMeasurement with host := [.start], txIn := [.ok] }
    let answers := [0x7E, 0x00, 0x00, 0x00, 0x00, 0xFF, 0x7E].map RxAnswer.byte
    s.params.wf = true ∧ s.phase = .idle ∧ s.status ≠ .busy ∧ s.presented = some .startMeasurement ∧
    codecEncode s.params.codec (encode s.params .startMeasurement) =
      some [0x7E, 0x00, 0x00, 0x02, 0x01, 0x03, 0xF9, 0x7E] ∧
    .fail ∉ answers ∧ answers.getLast? = some (.byte Config.delim) ∧ (rxBytes answers).count Config.delim = 2 ∧
    (rxBytes answers).length ≤ 600 ∧
    codecDecode s.params.codec (rxBytes answers) = some (encode s.params (.startMeasurementRsp 0x00 [] 0xFF)) ∧
    Instr.wf (.startMeasurementRsp 0x00 [] 0xFF) = true ∧ succeeds s.params (.startMeasurementRsp 0x00 [] 0xFF) :=
  ⟨rfl, rfl, by decide, rfl, by decide, by decide, by decide, by decide, by decide, by decide, rfl, by decide, trivial⟩

/-- The same for an operation with a result, `read_cleaning_interval` (V-OP12), and for one with an operand and a
result, `device_info` (V-OP20), each with a byte answer after a would-block. -/
theorem witness_OperationRunsToItsResult_with_results :
    let run1 := [.wouldBlock] ++ [0x7E, 0x00, 0x80, 0x00, 0x04, 0x00, 0x09, 0x3A, 0x80, 0xB8, 0x7E].map RxAnswer.byte
    let run2 := [.wouldBlock] ++ [0x7E, 0x00, 0xD0, 0x00, 0x05, 0x53, 0x50, 0x53, 0x33, 0x30, 0xD1, 0x7E].map RxAnswer.byte
    (ready .readCleaningInterval).presented = some .readCleaningInterval ∧
    (ready (.deviceInfo .productName)).presented = some (.deviceInfo .productName) ∧
    codecEncode refParams.codec (encode refParams .readCleaningInterval) = some [0x7E, 0x00, 0x80, 0x00, 0x7F, 0x7E] ∧
    codecEncode refParams.codec (encode refParams (.deviceInfo .productName)) =
      some [0x7E, 0x00, 0xD0, 0x01, 0x01, 0x2D, 0x7E] ∧
    .fail ∉ run1 ∧ run1.getLast? = some (.byte Config.delim) ∧ (rxBytes run1).count Config.delim = 2 ∧
    (rxBytes run1).length ≤ 600 ∧
    .fail ∉ run2 ∧ run2.getLast? = some (.byte Config.delim) ∧ (rxBytes run2).count Config.delim = 2 ∧
    (rxBytes run2).length ≤ 600 ∧
    codecDecode refParams.codec (rxBytes run1) = some (encode refParams (.readCleaningIntervalRsp 0x00 604800 0xB8)) ∧
    codecDecode refParams.codec (rxBytes run2) =
      some (encode refParams (.deviceInfoRsp 0x00 [0x53, 0x50, 0x53, 0x33, 0x30] 0xD1)) ∧
    succeeds refParams (.readCleaningIntervalRsp 0x00 604800 0xB8) ∧
    succeeds refParams (.deviceInfoRsp 0x00 [0x53, 0x50, 0x53, 0x33, 0x30] 0xD1) :=
  ⟨rfl, rfl, by decide, by decide, by decide, by decide, by decide, by decide, by decide, by decide, by decide, by decide,
    by decide, by decide, ⟨by decide, trivial⟩, ⟨by decide, by decide⟩⟩

end Sys2Proof.Tests
end

namespace Sys2Proof.Machine

/-! ## *Start* -/

/-- Presenting the operation already presented changes nothing. -/
theorem State.present_of_presented {s : State} {i : Instr} (h : s.presented = some i) : s.present i = s := by
  unfold State.presented at h
  split at h
  case h_1 => cases h
  case h_6 =>
    obtain ⟨v, hv, rfl⟩ := Option.map_eq_some_iff.1 h
    simp only [State.present, ← hv, ← ‹s.op = _›]
  case h_8 =>
    obtain ⟨x, hx, rfl⟩ := Option.map_eq_some_iff.1 h
    simp only [State.present, ← hx, ← ‹s.op = _›]
  all_goals
    cases h
    simp only [State.present, ← ‹s.op = _›]

/-- Presenting an operation writes operand registers only. -/
theorem State.present_eq (s : State) (i : Instr) :
    ∃ o a x, s.present i = { s with op := o, arg := a, sel := x } := by
  cases i <;> exact ⟨_, _, _, rfl⟩

/-- What a state presents, it presents once *start* has run. -/
@[simp] theorem State.start_presented (s : State) : s.start.presented = s.presented := rfl

/-- *Start* of an operation while none runs (R23, R26). -/
theorem exec_start {i : Instr} {s : State} (hi : i.isRequest = true) (hp : s.phase = .idle) (hb : s.status ≠ .busy) :
    exec i s = .next (s.present i).start := by
  rw [exec_request hi]
  simp only [operate, hp, startStep, if_neg hb]

/-- *Start* forgets everything but the parameters, the operands, the host and the transport (R45). -/
theorem State.start_congr {s s' : State} (hparams : s.params = s'.params) (hop : s.op = s'.op)
    (harg : s.arg = s'.arg) (hsel : s.sel = s'.sel) (hhost : s.host = s'.host) (hrd : s.hostRd = s'.hostRd)
    (htx : s.txIn = s'.txIn) (hrx : s.rxIn = s'.rxIn) (hwrites : s.writes = s'.writes) (hpolls : s.polls = s'.polls)
    (htaken : s.taken = s'.taken) (hwire : s.wire = s'.wire) (hdraws : s.draws = s'.draws)
    (hfaults : s.hostFaults = s'.hostFaults) : s.start = s'.start := by
  simp only [State.start, State.clearResults, *]

/-- The operands presented depend on the operand registers alone. -/
theorem State.present_operands_congr {s s' : State} (i : Instr) (hop : s.op = s'.op) (harg : s.arg = s'.arg)
    (hsel : s.sel = s'.sel) :
    (s.present i).op = (s'.present i).op ∧ (s.present i).arg = (s'.present i).arg ∧
      (s.present i).sel = (s'.present i).sel := by
  cases i <;> simp [State.present, hop, harg, hsel]

/-- Settles O20: `start` overwrites every register in which the two states may differ. -/
theorem nothingSurvivesAStart : Obligations.NothingSurvivesAStart := by
  unfold Obligations.NothingSurvivesAStart
  intro i s s' hi hp hp' hb hb' hparams hop harg hsel hhost hrd htx hrx hwrites hpolls htaken hwire hdraws hfaults
  obtain ⟨hop, harg, hsel⟩ := State.present_operands_congr i hop harg hsel
  rw [exec_start hi hp hb, exec_start hi hp' hb']
  exact congrArg _ (State.start_congr (by simpa) hop harg hsel (by simpa) (by simpa) (by simpa) (by simpa) (by simpa)
    (by simpa) (by simpa) (by simpa) (by simpa) (by simpa))

end Sys2Proof.Machine

namespace Sys2Proof.Machine

/-! ## What keeps the invariant -/

/-- An idle machine with the invariant has no operation running. -/
theorem Inv.idle {s : State} (h : Inv s) (hb : s.status ≠ .busy) : s.phase = .idle := h.idleIff.2 hb

/-- While no operation runs the operand registers may be written. -/
theorem Inv.operands {s : State} (h : Inv s) (hb : s.status ≠ .busy) (o : Option Op) (a : Option Word)
    (x : Option Selector) : Inv { s with op := o, arg := a, sel := x } :=
  { h with
    busyPresents := fun hb' => absurd hb' hb
    issuedCode := fun hp => absurd (h.idle hb) hp }

/-- The state after the free values of *start* have been drawn. -/
theorem Inv.drawOperands {s : State} (h : Inv s) (hb : s.status ≠ .busy) : Inv s.drawOperands := by
  obtain ⟨o, a, x, he⟩ := State.present_eq s s.sampled
  rw [State.drawOperands, he]
  exact { h.operands hb o a x with }

/-- The state after reset has the invariant (R230). -/
theorem inv_reset : Inv State.reset where
  params := rfl
  txpWf := .nil
  rxsWf := .nil
  rxpWf := .nil
  txpIn := nofun
  rxsIn := nofun
  txpHeld := rfl
  rxsHeld := rfl
  rxpHeld := rfl
  txpCap := Nat.zero_le _
  idleIff := by decide
  errIff := by decide
  noResult := fun _ => ⟨rfl, rfl, rfl, rfl⟩
  fTen := nofun
  infoFull := nofun
  infoLenCap := nofun
  infoBoth := rfl
  busyPresents := nofun
  issuedCode := fun hp => absurd rfl hp
  delimsCap := Nat.zero_le _
  rxCntCap := Nat.zero_le _
  recvOpen := nofun
  recvCounted := nofun
  frameDone := nofun
  extractValid := nofun
  takenLe := Nat.le_refl _

/-- The engine's reset leaves the registers as after reset. -/
theorem Inv.engineReset {s : State} (h : Inv s) : Inv s.engineReset :=
  { inv_reset with params := h.params, takenLe := h.takenLe, issuedCode := fun hp => absurd rfl hp }

/-- *Start* leaves the working registers as after reset, and the operation it runs presented. -/
theorem Inv.start {s : State} (h : Inv s) (hpr : s.presented.isSome) : Inv s.start :=
  { inv_reset with
    params := h.params
    takenLe := h.takenLe
    idleIff := by simp
    errIff := by simp
    noResult := fun _ => ⟨rfl, rfl, rfl, rfl⟩
    busyPresents := fun _ => hpr
    issuedCode := fun _ hp => absurd rfl hp
    recvOpen := nofun
    recvCounted := nofun
    frameDone := nofun
    extractValid := nofun }

/-- An operation ends (R26): the engine is idle, the status says how, and results are held only on success. -/
theorem Inv.ended {s : State} (h : Inv s) {st : Status} {e : ErrKind} {f : Option (List Word)} {ci : Option Word}
    {info : Option Bytes} {len : Option Nat} (hst : st ≠ .busy) (he : st = .err ↔ e ≠ .noError)
    (hres : st ≠ .ok → f = none ∧ ci = none ∧ info = none ∧ len = none)
    (hf : ∀ v, f = some v → v.length = Config.nMeas) (hinfo : ∀ v, info = some v → v.length = Config.infoCap)
    (hlen : ∀ n, len = some n → n ≤ Config.infoCap) (hboth : info.isSome = len.isSome) :
    Inv { s with status := st, err := e, phase := .idle, f := f, ci := ci, info := info, infoLen := len } :=
  { h with
    idleIff := by simpa using hst
    errIff := he
    noResult := hres
    fTen := hf
    infoFull := hinfo
    infoLenCap := hlen
    infoBoth := hboth
    busyPresents := fun hb => absurd hb hst
    issuedCode := fun hp => absurd rfl hp
    recvOpen := nofun
    recvCounted := nofun
    frameDone := nofun
    extractValid := nofun }

/-- Taking an error (R210). -/
theorem Inv.raise {s : State} (h : Inv s) {k : ErrKind} (hk : k ≠ .noError) : Inv (s.raise k) :=
  h.ended (by simp) (by simp [hk]) (fun _ => ⟨rfl, rfl, rfl, rfl⟩) nofun nofun nofun rfl

/-- Success of a running operation (R180), with the results it writes. -/
theorem Inv.finishWith {s : State} (h : Inv s) (hp : s.phase ≠ .idle) {f : Option (List Word)} {ci : Option Word}
    {info : Option Bytes} {len : Option Nat} (hf : ∀ v, f = some v → v.length = Config.nMeas)
    (hinfo : ∀ v, info = some v → v.length = Config.infoCap) (hlen : ∀ n, len = some n → n ≤ Config.infoCap)
    (hboth : info.isSome = len.isSome) :
    Inv { s.finish with f := f, ci := ci, info := info, infoLen := len } :=
  h.ended (by simp) (by simp [(h.nothing hp).1]) (fun hok => absurd rfl hok) hf hinfo hlen hboth

/-- Success of a running operation that has no result. -/
theorem Inv.finish {s : State} (h : Inv s) (hp : s.phase ≠ .idle) : Inv s.finish :=
  h.finishWith hp h.fTen h.infoFull h.infoLenCap h.infoBoth

/-- The engine goes from one phase of a running operation to another, given what the new phase claims. -/
theorem Inv.goto {s : State} (h : Inv s) {p : Phase} (hrun : s.phase ≠ .idle) (hbuilt : s.phase ≠ .build)
    (hp : p ≠ .idle)
    (hrecv : p = .recv → (s.delims < 2 ∧ s.rxCnt < Config.rxCap) ∧
      ∃ bs, s.captured = some bs ∧ bs.count Config.delim = s.delims)
    (hdone : p = .decode →
      ∃ bs, s.captured = some bs ∧ bs.count Config.delim = 2 ∧ bs.getLast? = some Config.delim)
    (hvalid : p = .extract → ∃ bs c, s.payload = some bs ∧ s.issued = some c ∧ validateKind c bs = none) :
    Inv { s with phase := p } :=
  { h with
    idleIff := by simp [hp, h.busy hrun]
    issuedCode := fun _ _ => h.issuedCode hrun hbuilt
    recvOpen := fun h => (hrecv h).1
    recvCounted := fun h => (hrecv h).2
    frameDone := hdone
    extractValid := hvalid }

/-- The call `TX.write_all` touches the environment only. -/
theorem Inv.afterWrite {s : State} (h : Inv s) (stream : Bytes) : Inv (s.afterWrite stream) := { h with }

/-- A poll consumes at most one byte (R57). -/
theorem Inv.afterPoll {s : State} (h : Inv s) : Inv s.afterPoll :=
  { h with
    takenLe := by
      have := h.takenLe
      simp only [State.afterPoll_taken, State.afterPoll_polls]
      split <;> omega }

/-! ## `P_BUILD` -/

/-- With a legal `CI_PREFIX` a request's data fit its `data-length` byte (R81). -/
theorem requestData_length_le {p : Params} (h : p.wf = true) (i : Instr) : (requestData p i).length ≤ 255 := by
  have hc : p.ciPrefix.length ≤ 251 := of_decide_eq_true h
  cases i <;> simp [requestData, Config.startData] <;> omega

/-- Such a request fits `TXP` (R33). -/
theorem requestData_fits {p : Params} (h : p.wf = true) (i : Instr) :
    (requestData p i).length + 4 ≤ Config.txBuf := by
  have := requestData_length_le h i
  simp only [Config.txBuf]
  omega

theorem Inv.buildStep_keeps {s t : State} {i : Instr} (h : Inv s) (hp : s.phase = .build) (hi : s.presented = some i)
    (ht : buildStep i s = .next t) : Inv t := by
  obtain ⟨hfit, rfl⟩ := buildStep_next ht
  have hb : s.status = .busy := h.busy (by simp [hp])
  exact { h with
    txpWf := Memory.writeBytes_wf _ _ h.txpWf
    txpIn := fun c hc => by
      rcases Memory.mem_writeBytes hc with hc | ⟨-, hc⟩
      · exact h.txpIn c hc
      · simp only [requestPayload_length] at hc
        omega
    txpHeld := Option.isSome_of_eq_some (request_of_writeBytes rfl (requestPayload_length _ _).symm)
    txpCap := Nat.add_le_add_right (requestData_length_le h.params i) 4
    idleIff := by simp [hb]
    issuedCode := fun _ _ => ⟨_, (State.presented_spec hi).2, rfl⟩
    recvOpen := nofun
    recvCounted := nofun
    frameDone := nofun
    extractValid := nofun }

/-! ## `P_ENCODE`, `P_SEND` -/

theorem Inv.encodeStep_keeps {s t : State} (h : Inv s) (hp : s.phase = .encode) (ht : encodeStep s = .next t) :
    Inv t := by
  obtain ⟨bs, -, ⟨-, rfl⟩ | ⟨stream, -, rfl⟩⟩ := encodeStep_next ht
  · exact h.raise nofun
  · exact { h.goto (p := .send) (by simp [hp]) (by simp [hp]) nofun nofun nofun nofun with }

theorem Inv.sendStep_keeps {s t : State} (h : Inv s) (hp : s.phase = .send) (ht : sendStep s = .next t) : Inv t := by
  obtain ⟨n, -, rfl⟩ | ⟨-, rfl⟩ := sendStep_next ht
  · exact (h.afterWrite _).raise nofun
  · have hclear : Inv { s.afterWrite s.stream with rxCnt := 0, delims := 0 } :=
      { h.afterWrite s.stream with
        rxsHeld := rfl
        delimsCap := Nat.zero_le _
        rxCntCap := Nat.zero_le _
        recvOpen := fun hr => nomatch hp.symm.trans hr
        recvCounted := fun hr => nomatch hp.symm.trans hr
        frameDone := fun hr => nomatch hp.symm.trans hr }
    exact hclear.goto (p := .recv) (by simp [hp]) (by simp [hp]) nofun
      (fun _ => ⟨⟨Nat.two_pos, show 0 < Config.rxCap by decide⟩, [], rfl, rfl⟩) nofun nofun

/-! ## `P_RECV` -/

/-- The delimiters among captured bytes, one byte more (R131). -/
theorem count_append_delim (bs : Bytes) (b : Byte) :
    (bs ++ [b]).count Config.delim = countDelim b (bs.count Config.delim) := by
  by_cases hb : b = Config.delim <;> simp [countDelim, hb]

/-- Only a delimiter byte changes the count. -/
theorem eq_delim_of_countDelim {b : Byte} {n : Nat} (h : n < countDelim b n) : b = Config.delim := by
  by_contra hb
  simp [countDelim, hb] at h

theorem countDelim_le (b : Byte) (n : Nat) : countDelim b n ≤ n + 1 := by
  unfold countDelim
  split <;> omega

/-- The bytes captured after one more is kept. -/
theorem captured_kept {s : State} {bs : Bytes} (b : Byte) (h : s.captured = some bs) :
    (kept b s).captured = some (bs ++ [b]) :=
  Memory.readBytes_write_end b h

/-- Keeping a byte in a phase that claims nothing of `RXS`. -/
theorem Inv.keepByte {s : State} (h : Inv s) (b : Byte) (hr : s.phase ≠ .recv) (hd : s.phase ≠ .decode)
    (hdelims : s.delims < 2) (hroom : s.rxCnt < Config.rxCap) : Inv (kept b s) := by
  obtain ⟨bs, hbs⟩ := Option.isSome_iff_exists.1 h.rxsHeld
  exact { h with
    rxsWf := Memory.writeBytes_wf _ _ h.rxsWf
    rxsIn := fun c hc => by
      rcases Memory.mem_writeBytes hc with hc | ⟨-, hc⟩
      · exact h.rxsIn c hc
      · exact Nat.lt_of_lt_of_le hc hroom
    rxsHeld := Option.isSome_of_eq_some (captured_kept b hbs)
    delimsCap := Nat.le_trans (countDelim_le b s.delims) hdelims
    rxCntCap := hroom
    recvOpen := fun hp => absurd hp hr
    recvCounted := fun hp => absurd hp hr
    frameDone := fun hp => absurd hp hd }

theorem Inv.recvByte_keeps {s t : State} {b : Byte} (h : Inv s) (hp : s.phase = .recv) (ht : recvByte b s = .next t) :
    Inv t := by
  obtain ⟨hdelims, hroom⟩ := h.recvOpen hp
  obtain ⟨bs, hbs, hcount⟩ := h.recvCounted hp
  have hcap := captured_kept b hbs
  have hcount' := count_append_delim bs b
  rw [hcount] at hcount'
  -- `P_CHECK` stands for a phase that claims nothing of `RXS`; each outcome then sets its own phase
  have hkept : Inv (kept b { s with phase := .check }) :=
    (h.goto (p := .check) (by simp [hp]) (by simp [hp]) nofun nofun nofun nofun).keepByte b nofun nofun hdelims hroom
  obtain ⟨-, ⟨h2, rfl⟩ | ⟨-, -, rfl⟩ | ⟨h2, hfull, rfl⟩⟩ := recvByte_next ht
  · have hb : b = Config.delim := eq_delim_of_countDelim (n := s.delims) (by omega)
    exact hkept.goto (p := .decode) nofun nofun nofun nofun
      (fun _ => ⟨_, hcap, hcount'.trans h2, by simp [hb]⟩) nofun
  · exact hkept.raise nofun
  · have hle := countDelim_le b s.delims
    have hgo := hkept.goto (p := .recv) nofun nofun nofun
      (fun _ => ⟨⟨show countDelim b s.delims < 2 by omega, show s.rxCnt + 1 < Config.rxCap by omega⟩,
        _, hcap, hcount'⟩) nofun nofun
    rw [← hp] at hgo
    exact hgo

theorem Inv.recvStep_keeps {s t : State} (h : Inv s) (hp : s.phase = .recv) (ht : recvStep s = .next t) : Inv t := by
  obtain ⟨-, rfl⟩ | ⟨-, rfl⟩ | ⟨b, -, hb⟩ := recvStep_next ht
  · exact h.afterPoll
  · exact h.afterPoll.raise nofun
  · exact h.afterPoll.recvByte_keeps hp hb

/-! ## `P_DECODE` to `P_EXTRACT` -/

theorem Inv.decodeStep_keeps {s t : State} (h : Inv s) (hp : s.phase = .decode) (ht : decodeStep s = .next t) :
    Inv t := by
  obtain ⟨bs, -, ⟨-, rfl⟩ | ⟨r, -, rfl⟩⟩ := decodeStep_next ht
  · exact h.raise nofun
  · exact { h.goto (p := .check) (by simp [hp]) (by simp [hp]) nofun nofun nofun nofun with
      rxpWf := Memory.writeBytes_wf 0 r .nil
      rxpHeld := Option.isSome_of_eq_some (payload_of_writeBytes rfl rfl)
      extractValid := nofun }

/-- Accumulating a checksum touches `ACC` only. -/
theorem summed_eq (bs : Bytes) (s : State) : ∃ a, summed bs s = { s with acc := a } := by
  unfold summed
  split
  · exact ⟨s.acc, rfl⟩
  · exact ⟨_, rfl⟩

theorem Inv.checkStep_keeps {s t : State} {bs : Bytes} (h : Inv s) (hp : s.phase = .check)
    (ht : checkStep bs s = .next t) : Inv t := by
  obtain ⟨a, ha⟩ := summed_eq bs s
  have hsum : Inv { s with acc := a } := { h with }
  obtain ⟨-, rfl⟩ | ⟨-, rfl⟩ := checkStep_next ht <;> rw [ha]
  · exact hsum.goto (by simp [hp]) (by simp [hp]) nofun nofun nofun nofun
  · exact hsum.raise nofun

/-- The validator names an error kind (R150). -/
theorem validateKind_ne_noError {c : Byte} {bs : Bytes} {k : ErrKind} (h : validateKind c bs = some k) :
    k ≠ .noError := by
  unfold validateKind at h
  split_ifs at h <;> cases h <;> nofun

theorem Inv.validateStep_keeps {s t : State} {bs : Bytes} (h : Inv s) (hp : s.phase = .validate)
    (hbs : s.payload = some bs) (ht : validateStep bs s = .next t) : Inv t := by
  obtain ⟨c, hc, ⟨k, hk, rfl⟩ | ⟨hk, rfl⟩⟩ := validateStep_next ht
  · exact h.raise (validateKind_ne_noError hk)
  · exact h.goto (by simp [hp]) (by simp [hp]) nofun nofun nofun fun _ => ⟨bs, c, hbs, hc, hk⟩

/-- The data a payload is asked for are as many as asked for. -/
theorem rspData_length {bs data : Bytes} {n : Nat} (h : rspData bs n = some data) : data.length = n := by
  unfold rspData at h
  split at h
  · cases h
    simp only [List.length_take, List.length_drop]
    omega
  · cases h

/-- How `Extract_OP` of operation `o` can end: an error, or success with that operation's own result, of the size
its registers hold (R181 to R188). -/
inductive Extracted (s : State) (o : Op) (t : State) : Prop where
  | raised (k : ErrKind) (ht : t = s.raise k) (hk : k ≠ .noError)
  | measured (vs : List Word) (ho : o = .readMeasurement) (hlen : vs.length = Config.nMeas)
      (ht : t = { s.finish with f := some vs })
  | interval (v : Word) (ho : o = .readCleaningInterval) (ht : t = { s.finish with ci := some v })
  | info (bs : Bytes) (n : Nat) (ho : o = .deviceInfo) (hlen : bs.length = Config.infoCap) (hn : n ≤ Config.infoCap)
      (ht : t = { s.finish with info := some bs, infoLen := some n })
  | plain (hm : o ≠ .readMeasurement) (hc : o ≠ .readCleaningInterval) (hi : o ≠ .deviceInfo) (ht : t = s.finish)

theorem extractStep_extracted {s t : State} {o : Op} {bs : Bytes} (ht : extractStep o bs s = .next t) :
    Extracted s o t := by
  rcases extractStep_next ht with
    ⟨ho, ⟨-, data, hd, ht⟩ | ⟨-, ht⟩ | ⟨-, -, ht⟩⟩ | ⟨ho, l, -, ⟨-, ht⟩ | ⟨-, b0, b1, b2, b3, -, ht⟩⟩ |
    ⟨ho, l, -, ⟨-, ht⟩ | ⟨-, ht⟩⟩ | ⟨ho, l, -, ⟨-, ht⟩ | ⟨hl, data, hd, ht⟩⟩ | ⟨ho, ht⟩
  · exact .measured _ ho (f32Groups_spec 10 data (rspData_length hd)).1 ht
  · exact .raised _ ht nofun
  · exact .raised _ ht nofun
  · exact .raised _ ht nofun
  · exact .interval _ ho ht
  · exact .raised _ ht nofun
  · exact .plain (by simp [ho]) (by simp [ho]) (by simp [ho]) ht
  · exact .raised _ ht nofun
  · refine .info _ _ ho ?_ hl ht
    simp only [List.length_append, List.length_replicate, rspData_length hd, Config.infoCap]
    omega
  · refine .plain ?_ ?_ ?_ ht <;> rintro rfl <;> simp at ho

theorem Inv.extractStep_keeps {s t : State} {o : Op} {bs : Bytes} (h : Inv s) (hp : s.phase = .extract)
    (ht : extractStep o bs s = .next t) : Inv t := by
  have hrun : s.phase ≠ .idle := by simp [hp]
  cases extractStep_extracted ht with
  | raised k ht hk => exact ht ▸ h.raise hk
  | measured vs _ hlen ht =>
    exact ht ▸ h.finishWith hrun (fun v hv => Option.some.inj hv ▸ hlen) h.infoFull h.infoLenCap h.infoBoth
  | interval v _ ht => exact ht ▸ h.finishWith hrun h.fTen h.infoFull h.infoLenCap h.infoBoth
  | info bs n _ hlen hn ht =>
    exact ht ▸ h.finishWith hrun h.fTen (fun v hv => Option.some.inj hv ▸ hlen)
      (fun m hm => Option.some.inj hm ▸ hn) rfl
  | plain _ _ _ ht => exact ht ▸ h.finish hrun

/-! ## Every step -/

/-- The engine's own step. -/
theorem Inv.engineStep_keeps {s t : State} (h : Inv s) (ht : engineStep s = .next t) : Inv t := by
  obtain ⟨-, rfl⟩ | ⟨hp, i, hi, hx⟩ | ⟨hp, hx⟩ | ⟨hp, hx⟩ | ⟨hp, hx⟩ | ⟨hp, hx⟩ |
    ⟨o, bs, -, hbs, ⟨hp, hx⟩ | ⟨hp, hx⟩ | ⟨hp, hx⟩⟩ := engineStep_phase ht
  · exact h
  · exact h.buildStep_keeps hp hi hx
  · exact h.encodeStep_keeps hp hx
  · exact h.sendStep_keeps hp hx
  · exact h.recvStep_keeps hp hx
  · exact h.decodeStep_keeps hp hx
  · exact h.checkStep_keeps hp hx
  · exact h.validateStep_keeps hp hbs hx
  · exact h.extractStep_keeps hp hx

/-- *Start* of an operation presented while none runs, whatever else the state is. -/
theorem exec_presented {u t : State} {i : Instr} (hi : u.presented = some i) (hp : u.phase = .idle)
    (hb : u.status ≠ .busy) (hx : exec i u = .next t) : t = u.start := by
  rw [exec_start (State.presented_spec hi).1 hp hb, State.present_of_presented hi] at hx
  cases hx
  rfl

/-- A move of the host, or the engine's step it lets through. -/
theorem Inv.hostStep_keeps {s t : State} {m : HostMove} (h : Inv s) (ht : hostStep m s = .next t) : Inv t := by
  obtain ⟨-, hx⟩ | ⟨hb, o, a, x, rfl⟩ | ⟨-, hb, u, i, hu, hi, hx⟩ | ⟨v, n, rfl⟩ | ⟨-, rfl⟩ := hostStep_cases ht
  · exact h.engineStep_keeps hx
  · exact h.operands hb o a x
  · obtain ⟨hu, hbu⟩ : Inv u ∧ u.status ≠ .busy := by
      obtain rfl | rfl := hu
      · exact ⟨h, hb⟩
      · exact ⟨h.drawOperands hb, by simpa⟩
    rw [exec_presented hi (hu.idle hbu) hbu hx]
    exact hu.start (Option.isSome_of_eq_some hi)
  · exact { h with }
  · exact h.engineReset

/-- Settles O47, by the cases of a step: the host's moves and the engine's phase actions. -/
theorem stepsKeepTheInvariant : Obligations.StepsKeepTheInvariant := by
  unfold Obligations.StepsKeepTheInvariant
  intro s t h ht
  obtain ⟨-, hx⟩ | ⟨m, rest, -, hx⟩ := step_cases ht
  · exact h.engineStep_keeps hx
  · have hpop : Inv { s with host := rest } := { h with }
    exact hpop.hostStep_keeps hx

end Sys2Proof.Machine

namespace Sys2Proof.Machine

/-! ## The engine never stops -/

/-- A validated payload is as long as its `data-length` byte says (R150, R154). -/
theorem validated_length {c : Byte} {bs : Bytes} (h : validateKind c bs = none) :
    ∃ l, rspLength bs = some l ∧ bs.length = l.toNat + 5 := by
  unfold validateKind at h
  split_ifs at h with hmin _ _ hlen
  obtain ⟨l, hl, hl5⟩ := Option.map_eq_some_iff.1 (not_not.1 hlen)
  simp only [Config.minRsp] at hmin
  exact ⟨l, hl, by omega⟩

/-- A payload that is long enough holds the data asked for. -/
theorem rspData_eq {bs : Bytes} {n : Nat} (h : bs.length = n + 5) : rspData bs n = some ((bs.drop 4).take n) :=
  if_pos (by omega)

/-- `Extract_OP` always answers on a validated payload. -/
theorem extractStep_total (o : Op) {bs : Bytes} {c : Byte} (s : State) (h : validateKind c bs = none) :
    ∃ t, extractStep o bs s = .next t := by
  obtain ⟨l, hl, hlen⟩ := validated_length h
  cases o
  case readMeasurement =>
    simp only [extractStep, extractMeasurement]
    split
    · rw [rspData_eq ‹_›]
      exact ⟨_, rfl⟩
    · split <;> exact ⟨_, rfl⟩
  case readCleaningInterval =>
    simp only [extractStep, extractInterval, hl]
    split
    · exact ⟨_, rfl⟩
    · rename_i h4
      have hfour : bs.length = 4 + 5 := by rw [hlen, not_not.1 h4]; rfl
      obtain ⟨b0, b1, b2, b3, hd⟩ := List.length_eq_four.1 (rspData_length (rspData_eq hfour))
      rw [rspData_eq hfour, hd]
      exact ⟨_, rfl⟩
  case writeCleaningInterval =>
    simp only [extractStep, extractWritten, hl]
    split <;> exact ⟨_, rfl⟩
  case deviceInfo =>
    simp only [extractStep, extractInfo, hl, rspData_eq hlen]
    split <;> exact ⟨_, rfl⟩
  all_goals exact ⟨_, rfl⟩

theorem encodeStep_total {s : State} (h : Inv s) : ∃ t, encodeStep s = .next t := by
  obtain ⟨bs, hbs⟩ := Option.isSome_iff_exists.1 h.txpHeld
  simp only [encodeStep, hbs]
  split <;> exact ⟨_, rfl⟩

theorem sendStep_total (s : State) : ∃ t, sendStep s = .next t := by
  unfold sendStep
  split <;> exact ⟨_, rfl⟩

theorem recvStep_total {s : State} (h : Inv s) : ∃ t, recvStep s = .next t := by
  have hroom : s.afterPoll.rxCnt + 1 ≤ Config.rxBuf := Nat.le_trans (Nat.succ_le_succ h.rxCntCap) (by decide)
  unfold recvStep
  split
  · exact ⟨_, rfl⟩
  · exact ⟨_, rfl⟩
  · exact ⟨_, recvByte_eq hroom⟩

theorem decodeStep_total {s : State} (h : Inv s) : ∃ t, decodeStep s = .next t := by
  obtain ⟨bs, hbs⟩ := Option.isSome_iff_exists.1 h.rxsHeld
  simp only [decodeStep, hbs]
  split <;> exact ⟨_, rfl⟩

theorem checkStep_total (bs : Bytes) (s : State) : ∃ t, checkStep bs s = .next t := by
  simp only [checkStep]
  split <;> exact ⟨_, rfl⟩

theorem validateStep_total {s : State} {c : Byte} (bs : Bytes) (h : s.issued = some c) :
    ∃ t, validateStep bs s = .next t := by
  simp only [validateStep, h]
  split <;> exact ⟨_, rfl⟩

/-- The template's phase action of a running operation always answers. -/
theorem operate_total {i : Instr} {s : State} (h : Inv s) (hrun : s.phase ≠ .idle) :
    ∃ t, operate i s = .next t := by
  obtain ⟨bs, hbs⟩ := Option.isSome_iff_exists.1 h.rxpHeld
  cases hp : s.phase <;> simp only [operate, respondHeld, hp]
  case idle => exact absurd hp hrun
  case build => exact ⟨_, buildStep_eq (requestData_fits h.params i)⟩
  case encode => exact encodeStep_total h
  case send => exact sendStep_total s
  case recv => exact recvStep_total h
  case decode => exact decodeStep_total h
  case check =>
    simp only [hbs, respond, hp]
    exact checkStep_total bs s
  case validate =>
    obtain ⟨o, -, hc⟩ := h.issuedCode hrun (by simp [hp])
    simp only [hbs, respond, hp]
    exact validateStep_total bs hc
  case extract =>
    obtain ⟨bs', c, hbs', -, hk⟩ := h.extractValid hp
    simp only [hbs', respond, hp]
    exact extractStep_total _ s hk

/-- In `P_IDLE` the engine waits (R24). -/
theorem engineStep_idle {s : State} (h : s.phase = .idle) : engineStep s = .next s := by
  simp only [engineStep, h]

/-- The engine's own step always has a next state (R134, R217). -/
theorem Inv.engineStep_total {s : State} (h : Inv s) : ∃ t, engineStep s = .next t := by
  by_cases hp : s.phase = .idle
  · exact ⟨s, engineStep_idle hp⟩
  · obtain ⟨i, hi⟩ := Option.isSome_iff_exists.1 (h.busyPresents (h.busy hp))
    rw [engineStep_operate hi hp]
    exact operate_total h hp

/-- *Start* while none runs is accepted, whatever the operand registers hold (R23). -/
theorem hostStart_idle {s : State} (hp : s.phase = .idle) (hb : s.status ≠ .busy) : ∃ t, hostStart s = .next t := by
  unfold hostStart
  rw [if_neg hb]
  split
  · exact ⟨_, exec_start (State.sampled_isRequest s) (by simpa) (by simpa)⟩
  · exact ⟨_, exec_start (State.presented_spec ‹_›).1 hp hb⟩

/-- No move of the host makes the machine fault. -/
theorem Inv.hostStep_ne_fault {s : State} (h : Inv s) (m : HostMove) (r : Fault) : hostStep m s ≠ .fault r := by
  have hwrite (t : State) : hostWrite s t ≠ .fault r := by
    unfold hostWrite
    split <;> nofun
  cases m with
  | quiet =>
    obtain ⟨t, ht⟩ := h.engineStep_total
    simp [hostStep, ht]
  | writeOp o => exact hwrite _
  | writeArg v => exact hwrite _
  | writeSel x => exact hwrite _
  | start =>
    by_cases hb : s.status = .busy
    · simp [hostStep, hostStart, hb]
    · obtain ⟨t, ht⟩ := hostStart_idle (h.idle hb) hb
      simp [hostStep, ht]
  | read q =>
    simp only [hostStep, hostRead]
    split <;> nofun
  | reset => nofun

/-- Settles O48, by the same cases as O47: every action finds what it reads. -/
theorem engineNeverReadsNone : Obligations.EngineNeverReadsNone := by
  unfold Obligations.EngineNeverReadsNone
  intro s r h hr
  obtain ⟨-, hx⟩ | ⟨m, rest, -, hx⟩ := step_cases hr
  · obtain ⟨t, ht⟩ := h.engineStep_total
    exact nomatch ht.symm.trans hx
  · have hpop : Inv { s with host := rest } := { h with }
    exact hpop.hostStep_ne_fault m r hx

end Sys2Proof.Machine

namespace Sys2Proof.Machine

/-! ## What an engine step leaves alone, and where it goes -/

/-- The parameters and the operand registers are the same. -/
def SameOperands (s t : State) : Prop := t.params = s.params ∧ t.op = s.op ∧ t.arg = s.arg ∧ t.sel = s.sel

/-- What an engine step can do with `PHASE` and `STATUS`, from `p` and `st` to `q` and `su` (R24, R26). -/
inductive PhaseMove (p : Phase) (st : Status) (q : Phase) (su : Status) : Prop where
  | stays (hphase : q = p) (hstatus : su = st)
  | advances (hphase : phaseNumber q = phaseNumber p + 1) (hstatus : su = st)
  | fails (hphase : q = .idle) (hstatus : su = .err)
  | succeeds (hfrom : p = .extract) (hphase : q = .idle) (hstatus : su = .ok)

/-- What holds of every engine step. -/
def EngineMove (s t : State) : Prop := SameOperands s t ∧ PhaseMove s.phase s.status t.phase t.status

theorem SameOperands.params {s t : State} (h : SameOperands s t) : t.params = s.params := h.1

theorem EngineMove.operands {s t : State} (h : EngineMove s t) : SameOperands s t := h.1

theorem EngineMove.move {s t : State} (h : EngineMove s t) : PhaseMove s.phase s.status t.phase t.status := h.2

theorem SameOperands.refl (s : State) : SameOperands s s := ⟨rfl, rfl, rfl, rfl⟩

theorem buildStep_move {s t : State} {i : Instr} (hp : s.phase = .build) (ht : buildStep i s = .next t) :
    EngineMove s t := by
  obtain ⟨-, rfl⟩ := buildStep_next ht
  exact ⟨.refl s, .advances (by rw [hp]; rfl) rfl⟩

/-- Every error is taken in the same way (R210). -/
theorem raise_move (s : State) (k : ErrKind) : EngineMove s (s.raise k) := ⟨.refl s, .fails rfl rfl⟩

theorem encodeStep_move {s t : State} (hp : s.phase = .encode) (ht : encodeStep s = .next t) : EngineMove s t := by
  obtain ⟨bs, -, ⟨-, rfl⟩ | ⟨stream, -, rfl⟩⟩ := encodeStep_next ht
  · exact raise_move s _
  · exact ⟨.refl s, .advances (by rw [hp]; rfl) rfl⟩

theorem sendStep_move {s t : State} (hp : s.phase = .send) (ht : sendStep s = .next t) : EngineMove s t := by
  obtain ⟨n, -, rfl⟩ | ⟨-, rfl⟩ := sendStep_next ht
  · exact raise_move (s.afterWrite s.stream) _
  · exact ⟨.refl s, .advances (by rw [hp]; rfl) rfl⟩

theorem recvByte_move {s t : State} {b : Byte} (hp : s.phase = .recv) (ht : recvByte b s = .next t) :
    EngineMove s t := by
  obtain ⟨-, ⟨-, rfl⟩ | ⟨-, -, rfl⟩ | ⟨-, -, rfl⟩⟩ := recvByte_next ht
  · exact ⟨.refl s, .advances (by rw [hp]; rfl) rfl⟩
  · exact raise_move (kept b s) _
  · exact ⟨.refl s, .stays rfl rfl⟩

theorem recvStep_move {s t : State} (hp : s.phase = .recv) (ht : recvStep s = .next t) : EngineMove s t := by
  obtain ⟨-, rfl⟩ | ⟨-, rfl⟩ | ⟨b, -, hb⟩ := recvStep_next ht
  · exact ⟨.refl s, .stays rfl rfl⟩
  · exact raise_move s.afterPoll _
  · exact recvByte_move (s := s.afterPoll) hp hb

theorem decodeStep_move {s t : State} (hp : s.phase = .decode) (ht : decodeStep s = .next t) : EngineMove s t := by
  obtain ⟨bs, -, ⟨-, rfl⟩ | ⟨r, -, rfl⟩⟩ := decodeStep_next ht
  · exact raise_move s _
  · exact ⟨.refl s, .advances (by rw [hp]; rfl) rfl⟩

theorem checkStep_move {s t : State} {bs : Bytes} (hp : s.phase = .check) (ht : checkStep bs s = .next t) :
    EngineMove s t := by
  obtain ⟨a, ha⟩ := summed_eq bs s
  obtain ⟨-, rfl⟩ | ⟨-, rfl⟩ := checkStep_next ht <;> rw [ha]
  · exact ⟨.refl s, .advances (by rw [hp]; rfl) rfl⟩
  · exact ⟨.refl s, .fails rfl rfl⟩

theorem validateStep_move {s t : State} {bs : Bytes} (hp : s.phase = .validate) (ht : validateStep bs s = .next t) :
    EngineMove s t := by
  obtain ⟨c, -, ⟨k, -, rfl⟩ | ⟨-, rfl⟩⟩ := validateStep_next ht
  · exact raise_move s k
  · exact ⟨.refl s, .advances (by rw [hp]; rfl) rfl⟩

theorem extractStep_move {s t : State} {o : Op} {bs : Bytes} (hp : s.phase = .extract)
    (ht : extractStep o bs s = .next t) : EngineMove s t := by
  cases extractStep_extracted ht with
  | raised k ht => exact ht ▸ raise_move s k
  | measured _ _ _ ht | interval _ _ ht | info _ _ _ _ _ ht | plain _ _ _ ht =>
    subst ht
    exact ⟨.refl s, .succeeds hp rfl rfl⟩

/-- The engine's step keeps the parameters and the operands, and moves as R24 says. -/
theorem engineStep_move {s t : State} (ht : engineStep s = .next t) : EngineMove s t := by
  obtain ⟨-, rfl⟩ | ⟨hp, i, -, hx⟩ | ⟨hp, hx⟩ | ⟨hp, hx⟩ | ⟨hp, hx⟩ | ⟨hp, hx⟩ |
    ⟨o, bs, -, -, ⟨hp, hx⟩ | ⟨hp, hx⟩ | ⟨hp, hx⟩⟩ := engineStep_phase ht
  · exact ⟨.refl t, .stays rfl rfl⟩
  · exact buildStep_move hp hx
  · exact encodeStep_move hp hx
  · exact sendStep_move hp hx
  · exact recvStep_move hp hx
  · exact decodeStep_move hp hx
  · exact checkStep_move hp hx
  · exact validateStep_move hp hx
  · exact extractStep_move hp hx

/-- Running an operation presented keeps the parameters, in `P_IDLE` and in every other phase. -/
theorem exec_presented_params {u t : State} {i : Instr} (hi : u.presented = some i) (hx : exec i u = .next t) :
    t.params = u.params := by
  rw [exec_request (State.presented_spec hi).1] at hx
  by_cases hp : u.phase = .idle
  · simp only [operate, hp] at hx
    obtain ⟨-, rfl⟩ := startStep_next hx
    simp
  · rw [← engineStep_operate hi hp] at hx
    exact (engineStep_move hx).operands.params

theorem hostStep_params {s t : State} {m : HostMove} (ht : hostStep m s = .next t) : t.params = s.params := by
  obtain ⟨-, hx⟩ | ⟨-, o, a, x, rfl⟩ | ⟨-, -, u, i, hu, hi, hx⟩ | ⟨v, n, rfl⟩ | ⟨-, rfl⟩ := hostStep_cases ht
  · exact (engineStep_move hx).operands.params
  · rfl
  · rw [exec_presented_params hi hx]
    obtain rfl | rfl := hu <;> simp
  · rfl
  · rfl

/-- Settles O51, by the cases of a step. -/
theorem parametersNeverChange : Obligations.ParametersNeverChange := by
  unfold Obligations.ParametersNeverChange
  intro s t ht
  obtain ⟨-, hx⟩ | ⟨m, rest, -, hx⟩ := step_cases ht
  · exact (engineStep_move hx).operands.params
  · exact (hostStep_params hx).trans rfl

/-- While an operation runs, a move of the host keeps the operands unless it ends the operation. -/
theorem hostStep_operands {s t : State} {m : HostMove} (hb : s.status = .busy) (ht : hostStep m s = .next t)
    (hp : t.phase ≠ .idle) : SameOperands s t := by
  obtain ⟨-, hx⟩ | ⟨hn, -⟩ | ⟨-, hn, -⟩ | ⟨v, n, rfl⟩ | ⟨-, rfl⟩ := hostStep_cases ht
  · exact (engineStep_move hx).operands
  · exact absurd hb hn
  · exact absurd hb hn
  · exact .refl s
  · exact absurd rfl hp

/-- Settles O52: the engine keeps the operands, and the host may not write them. -/
theorem operandsAreFixedWhileBusy : Obligations.OperandsAreFixedWhileBusy := by
  unfold Obligations.OperandsAreFixedWhileBusy
  intro s t hb ht hp
  have hsame : SameOperands s t := by
    obtain ⟨-, hx⟩ | ⟨m, rest, -, hx⟩ := step_cases ht
    · exact (engineStep_move hx).operands
    · exact hostStep_operands (s := { s with host := rest }) hb hx hp
  obtain ⟨-, hop, harg, hsel⟩ := hsame
  exact ⟨hop, harg, hsel, State.presented_congr hop harg hsel⟩

/-- The control transfers of the engine (R24). -/
theorem PhaseMove.order {p q : Phase} {st su : Status} (h : PhaseMove p st q su) :
    q = p ∨ q = .idle ∨ phaseNumber q = phaseNumber p + 1 := by
  cases h with
  | stays hphase => exact .inl hphase
  | advances hphase => exact .inr (.inr hphase)
  | fails hphase => exact .inr (.inl hphase)
  | succeeds _ hphase => exact .inr (.inl hphase)

/-- The control transfers of the host: *start*, from `P_IDLE` to `P_BUILD`, and the reset input. -/
theorem Inv.hostStep_order {s t : State} {m : HostMove} (h : Inv s) (ht : hostStep m s = .next t) :
    t.phase = s.phase ∨ t.phase = .idle ∨ phaseNumber t.phase = phaseNumber s.phase + 1 := by
  obtain ⟨-, hx⟩ | ⟨-, o, a, x, rfl⟩ | ⟨-, hb, u, i, hu, hi, hx⟩ | ⟨v, n, rfl⟩ | ⟨-, rfl⟩ := hostStep_cases ht
  · exact (engineStep_move hx).move.order
  · exact .inl rfl
  · have hidle := h.idle hb
    obtain ⟨hpu, hbu⟩ : u.phase = .idle ∧ u.status ≠ .busy := by
      obtain rfl | rfl := hu <;> simp [hidle, hb]
    rw [exec_presented hi hpu hbu hx, hidle]
    exact .inr (.inr rfl)
  · exact .inl rfl
  · exact .inr (.inl rfl)

/-- Settles O53, by the cases of a step. -/
theorem phasesFollowTheirOrder : Obligations.PhasesFollowTheirOrder := by
  unfold Obligations.PhasesFollowTheirOrder
  intro s t h ht
  obtain ⟨-, hx⟩ | ⟨m, rest, -, hx⟩ := step_cases ht
  · exact (engineStep_move hx).move.order
  · have hpop : Inv { s with host := rest } := { h with }
    exact hpop.hostStep_order hx

/-! ## Success -/

/-- An engine step of a running operation ends with success only in `P_EXTRACT`. -/
theorem PhaseMove.success {p q : Phase} {st su : Status} (h : PhaseMove p st q su) (hst : st ≠ .ok) (hsu : su = .ok) :
    p = .extract ∧ q = .idle := by
  cases h with
  | stays _ hstatus => exact absurd (hstatus.symm.trans hsu) hst
  | advances _ hstatus => exact absurd (hstatus.symm.trans hsu) hst
  | fails _ hstatus => exact nomatch hstatus.symm.trans hsu
  | succeeds hfrom hphase => exact ⟨hfrom, hphase⟩

/-- In `P_EXTRACT` the engine runs `Extract_OP` of the operation `OP` holds. -/
theorem engineStep_extract {s t : State} (hp : s.phase = .extract) (ht : engineStep s = .next t) :
    ∃ o bs, s.op = some o ∧ extractStep o bs s = .next t := by
  rcases engineStep_phase ht with ⟨h, -⟩ | ⟨h, -⟩ | ⟨h, -⟩ | ⟨h, -⟩ | ⟨h, -⟩ | ⟨h, -⟩ |
    ⟨o, bs, ho, -, ⟨h, -⟩ | ⟨h, -⟩ | ⟨-, hx⟩⟩
  case inr.inr.inr.inr.inr.inr.inr.inr => exact ⟨o, bs, ho, hx⟩
  all_goals exact nomatch hp.symm.trans h

/-- `Extract_OP` with success, from empty result registers: that operation's own are held and no other (R30 to R32). -/
theorem extractStep_ok {s t : State} {o : Op} {bs : Bytes} (ht : extractStep o bs s = .next t) (hok : t.status = .ok)
    (hf : s.f = none) (hci : s.ci = none) (hinfo : s.info = none) (hlen : s.infoLen = none) :
    t.err = s.err ∧ (t.f.isSome = true ↔ o = .readMeasurement) ∧ (t.ci.isSome = true ↔ o = .readCleaningInterval) ∧
      (t.info.isSome = true ↔ o = .deviceInfo) ∧ (t.infoLen.isSome = true ↔ o = .deviceInfo) := by
  cases extractStep_extracted ht with
  | raised k ht => subst ht; cases hok
  | measured vs ho _ ht => rw [ho, ht]; simp [hci, hinfo, hlen]
  | interval v ho ht => rw [ho, ht]; simp [hf, hinfo, hlen]
  | info bs n ho _ _ ht => rw [ho, ht]; simp [hf, hci]
  | plain hm hc hi ht => rw [ht]; simp [hf, hci, hinfo, hlen, hm, hc, hi]

/-- Settles O54: success comes from `Extract_OP`, which finds every result register empty. -/
theorem successHoldsOnlyItsOwnResult : Obligations.SuccessHoldsOnlyItsOwnResult := by
  unfold Obligations.SuccessHoldsOnlyItsOwnResult
  intro s t h hu ht hok
  obtain ⟨hb, hhost⟩ := hu
  have hx : engineStep s = .next t := by rwa [step, hhost] at ht
  obtain ⟨hp, hidle⟩ := (engineStep_move hx).move.success (by simp [hb]) hok
  obtain ⟨o, bs, ho, hext⟩ := engineStep_extract hp hx
  obtain ⟨herr, hf, hci, hinfo, hlen⟩ := h.nothing (by simp [hp])
  obtain ⟨he, hres⟩ := extractStep_ok hext hok hf hci hinfo hlen
  simp only [ho, Option.some.injEq]
  exact ⟨hp, hidle, he.trans herr, hres⟩

end Sys2Proof.Machine

namespace Sys2Proof.Machine

/-! ## The host's moves -/

/-- The host's next move is taken off its script. -/
theorem step_of_host {s : State} {m : HostMove} {rest : List HostMove} (h : s.host = m :: rest) :
    step s = hostStep m { s with host := rest } := by
  rw [step, h]

/-- *Start* of an operation presented (R23). -/
theorem step_start_presented {s : State} {i : Instr} {rest : List HostMove} (hh : s.host = .start :: rest)
    (hb : s.status ≠ .busy) (hi : s.presented = some i) : step s = exec i { s with host := rest } := by
  have hi' : { s with host := rest }.presented = some i := hi
  rw [step_of_host hh]
  simp only [hostStep, hostStart, if_neg hb, hi']

/-- An operand write while no operation runs (R23). -/
theorem hostWrite_eq {s : State} (t : State) (h : s.status ≠ .busy) : hostWrite s t = .next t := if_neg h

/-- An operand write while an operation runs. -/
theorem hostWrite_busy {s : State} (t : State) (h : s.status = .busy) :
    hostWrite s t = .refused .operandWriteWhileBusy := if_pos h

/-- Settles O17, move by move. -/
theorem hostMovesWhileBusyAreRefused : Obligations.HostMovesWhileBusyAreRefused := by
  unfold Obligations.HostMovesWhileBusyAreRefused
  intro s rest o v x
  refine ⟨fun hb hh => ?_, fun hb hh => ?_, fun hb hh => ?_, fun hb hh => ?_, fun hb hp hpr hh => ?_, fun hb hh => ?_,
    fun hb hh => ?_, fun hb hh => ?_⟩
  · rw [step_of_host hh]
    exact if_pos hb
  · exact (step_of_host hh).trans (hostWrite_busy _ hb)
  · exact (step_of_host hh).trans (hostWrite_busy _ hb)
  · exact (step_of_host hh).trans (hostWrite_busy _ hb)
  · obtain ⟨i, hi⟩ := Option.isSome_iff_exists.1 hpr
    have hr := (State.presented_spec hi).1
    refine ⟨_, (step_start_presented hh hb hi).trans (exec_start hr hp hb), rfl, ?_⟩
    rw [State.start_presented, State.presented_present _ hr, hi]
  · exact (step_of_host hh).trans (hostWrite_eq _ hb)
  · exact (step_of_host hh).trans (hostWrite_eq _ hb)
  · exact (step_of_host hh).trans (hostWrite_eq _ hb)

/-- What the host reads does not depend on its script. -/
theorem hostValue_host (s : State) (rest : List HostMove) (r : HostReg) :
    hostValue { s with host := rest } r = hostValue s r := by
  cases r <;> rfl

/-- A read of a register that holds a value (R20, R239). -/
theorem step_read_value {s : State} {r : HostReg} {v : HostValue} {rest : List HostMove} (hv : hostValue s r = some v)
    (hh : s.host = .read r :: rest) : step s = .next { s with host := rest, hostRd := some v } := by
  rw [step_of_host hh]
  simp only [hostStep, hostRead, hostValue_host, hv]

/-- A read of a register that holds NONE (R21). -/
theorem step_read_none {s : State} {r : HostReg} {rest : List HostMove} (hv : hostValue s r = none)
    (hh : s.host = .read r :: rest) :
    step s = .next { s with host := rest, hostRd := none, hostFaults := s.hostFaults + 1 } := by
  rw [step_of_host hh]
  simp only [hostStep, hostRead, hostValue_host, hv]

/-- Settles O18, register by register. -/
theorem hostReadsDeliverOrFault : Obligations.HostReadsDeliverOrFault := by
  unfold Obligations.HostReadsDeliverOrFault
  intro s rest
  exact ⟨step_read_value rfl, step_read_value rfl,
    fun v hv => step_read_value (by simp [hostValue, hv]),
    fun k vs w hf hw => step_read_value (by simp [hostValue, hf, hw]),
    fun k bs b hi hb => step_read_value (by simp [hostValue, hi, hb]),
    fun n hn => step_read_value (by simp [hostValue, hn]),
    fun hv => step_read_none (by simp [hostValue, hv]),
    fun k hf => step_read_none (by simp [hostValue, hf]),
    fun k hi => step_read_none (by simp [hostValue, hi]),
    fun hn => step_read_none (by simp [hostValue, hn])⟩

/-! ## The first step of an operation -/

/-- Only `write_cleaning_interval` writes `ARG` (R22). -/
theorem State.present_arg (s : State) {i : Instr} (h : i.opOf ≠ .writeCleaningInterval) :
    (s.present i).arg = s.arg := by
  cases i with
  | writeCleaningInterval v => exact absurd rfl h
  | _ => rfl

/-- Only `device_info` writes `SEL` (R22). -/
theorem State.present_sel (s : State) {i : Instr} (h : i.opOf ≠ .deviceInfo) : (s.present i).sel = s.sel := by
  cases i with
  | deviceInfo x => exact absurd rfl h
  | _ => rfl

/-- Settles O19: `start` of the operation presented, register by register. -/
theorem everyOperationStarts : Obligations.EveryOperationStarts := by
  unfold Obligations.EveryOperationStarts
  intro i s hi hp hb
  refine ⟨(s.present i).start, exec_start hi hp hb, ?_, rfl, rfl, rfl, rfl, rfl, rfl, rfl, rfl, rfl, rfl, rfl, rfl,
    fun _ => rfl, fun _ => rfl, fun _ => rfl, s.present_arg, s.present_sel, ?_⟩
  · rw [State.start_presented, State.presented_present s hi]
  · simp

/-- A value `ARG` holds is the one sampled (R22). -/
theorem State.sampled_arg {s : State} {v w : Word} (hv : s.arg = some v) (h : s.sampled = .writeCleaningInterval w) :
    w = v := by
  unfold State.sampled at h
  split at h <;> cases h
  rw [hv]
  rfl

/-- A value `SEL` holds is the one sampled (R22). -/
theorem State.sampled_sel {s : State} {x y : Selector} (hx : s.sel = some x) (h : s.sampled = .deviceInfo y) :
    y = x := by
  unfold State.sampled at h
  split at h <;> cases h
  rw [hx]
  rfl

/-- Drawing the operands is presenting the operation sampled, and counting the draw. -/
theorem State.drawOperands_eq (s : State) :
    s.drawOperands = { s with draws := s.draws + 1 }.present s.sampled := by
  unfold State.drawOperands
  cases s.sampled <;> rfl

/-- *Start* with an operand register at NONE runs the operation sampled (log entry 14). -/
theorem step_start_unwritten {s : State} {rest : List HostMove} (hh : s.host = .start :: rest) (hb : s.status ≠ .busy)
    (hn : s.presented = none) : step s = exec s.sampled { s with host := rest }.drawOperands := by
  have hn' : { s with host := rest }.presented = none := hn
  rw [step_of_host hh]
  simp only [hostStep, hostStart, if_neg hb, hn']
  rfl

/-- Settles O59: *start* presents what it samples, and samples what the registers hold. -/
theorem startWithUnwrittenOperandsRuns : Obligations.StartWithUnwrittenOperandsRuns := by
  unfold Obligations.StartWithUnwrittenOperandsRuns
  intro s rest hh hb hp hn
  have hreq := State.sampled_isRequest s
  have hdrawn : { s with host := rest }.drawOperands.presented = some s.sampled := State.drawOperands_presented _
  refine ⟨s.sampled, { s with host := rest }.drawOperands.start, hreq, fun o => State.sampled_opOf,
    fun v w => State.sampled_arg, fun x y => State.sampled_sel, ?_, ?_, hdrawn, rfl, rfl⟩
  · rw [State.drawOperands_eq]
    exact exec_start hreq hp hb
  · rw [step_start_unwritten hh hb hn, exec_start hreq (by simpa) (by simpa), State.present_of_presented hdrawn]

/-- With the host making no move, a step is the engine's. -/
theorem step_of_quiet {s : State} (h : s.host = []) : step s = engineStep s := by
  rw [step, h]

/-- Settles O21: the engine runs the template of the operation presented, which is that operation's meaning. -/
theorem stepRunsThePresentedOperation : Obligations.StepRunsThePresentedOperation := by
  unfold Obligations.StepRunsThePresentedOperation
  intro s i rest hi
  refine ⟨fun hh hp => (step_of_quiet hh).trans (engineStep_idle hp), fun hh hp => ?_,
    fun hh hb => step_start_presented hh hb hi⟩
  have hrun : s.phase ≠ .idle := by
    intro h
    simp [h] at hp
  rw [step_operate hh hi hrun, exec_request (State.presented_spec hi).1]

/-! ## Response rows -/

theorem checkStep_ne_refused (bs : Bytes) (s : State) (r : Refusal) : checkStep bs s ≠ .refused r := by
  obtain ⟨t, ht⟩ := checkStep_total bs s
  simp [ht]

theorem validateStep_ne_refused (bs : Bytes) (s : State) (r : Refusal) : validateStep bs s ≠ .refused r := by
  cases hc : s.issued with
  | none => simp [validateStep, hc]
  | some c =>
    obtain ⟨t, ht⟩ := validateStep_total bs hc
    simp [ht]

theorem extractStep_ne_refused (o : Op) (bs : Bytes) (s : State) (r : Refusal) : extractStep o bs s ≠ .refused r := by
  cases o
  case readMeasurement =>
    simp only [extractStep, extractMeasurement]
    split
    · split <;> nofun
    · split <;> nofun
  case readCleaningInterval =>
    simp only [extractStep, extractInterval]
    split
    · nofun
    · split
      · nofun
      · split <;> nofun
  case writeCleaningInterval =>
    simp only [extractStep, extractWritten]
    split
    · nofun
    · split <;> nofun
  case deviceInfo =>
    simp only [extractStep, extractInfo]
    split
    · nofun
    · split
      · nofun
      · split <;> nofun
  all_goals nofun

/-- The engine takes a response in the three response phases and nowhere else (R24, R35). -/
theorem respond_refused_iff (o : Op) (bs : Bytes) (s : State) :
    respond o bs s = .refused .noResponseExpected ↔ s.phase ≠ .check ∧ s.phase ≠ .validate ∧ s.phase ≠ .extract := by
  cases hp : s.phase
  case check => simp [respond, hp, checkStep_ne_refused]
  case validate => simp [respond, hp, validateStep_ne_refused]
  case extract => simp [respond, hp, extractStep_ne_refused]
  all_goals simp [respond, hp]

/-- Settles O41: a response row's meaning is the response phases on its payload. -/
theorem responseRowsRefusedElsewhere : Obligations.ResponseRowsRefusedElsewhere := by
  unfold Obligations.ResponseRowsRefusedElsewhere
  intro i s o hi ho
  rw [exec_response hi]
  simp only [receive, ho]
  exact respond_refused_iff o _ s

end Sys2Proof.Machine

namespace Sys2Proof.Machine

/-! ## Four bytes (R52) -/

/-- The first of several bytes read, and the rest. -/
theorem Memory.readBytes_eq_cons_iff {m : Memory} {a n : Nat} {b : Byte} {bs : Bytes} :
    m.readBytes a (n + 1) = some (b :: bs) ↔ m.read a = some b ∧ m.readBytes (a + 1) n = some bs := by
  rw [Memory.readBytes]
  cases m.read a <;> cases m.readBytes (a + 1) n <;> simp

/-- Four bytes read together are the four bytes read one by one. -/
theorem Memory.readBytes_four_iff {m : Memory} {a : Nat} {b0 b1 b2 b3 : Byte} :
    m.readBytes a 4 = some [b0, b1, b2, b3] ↔
      m.read a = some b0 ∧ m.read (a + 1) = some b1 ∧ m.read (a + 2) = some b2 ∧ m.read (a + 3) = some b3 := by
  rw [Memory.readBytes_eq_cons_iff, Memory.readBytes_eq_cons_iff, Memory.readBytes_eq_cons_iff,
    Memory.readBytes_eq_cons_iff]
  simp [Memory.readBytes, Nat.add_assoc]

/-- A 4-byte load of bytes that are held. -/
theorem Memory.read32_eq {m : Memory} {a : Nat} {b0 b1 b2 b3 : Byte} (h : m.readBytes a 4 = some [b0, b1, b2, b3]) :
    m.read32 a = some (be32Dec b0 b1 b2 b3) := by
  rw [Memory.read32, h]

/-- The byte at the lowest index weighs most (R162). -/
theorem be32Dec_toNat (b0 b1 b2 b3 : Byte) :
    (be32Dec b0 b1 b2 b3).toNat = b0.toNat * 2 ^ 24 + b1.toNat * 2 ^ 16 + b2.toNat * 2 ^ 8 + b3.toNat := by
  simp only [be32Dec, BitVec.toNat_append]
  rw [← Nat.shiftLeft_add_eq_or_of_lt b1.isLt, ← Nat.shiftLeft_add_eq_or_of_lt b2.isLt,
    ← Nat.shiftLeft_add_eq_or_of_lt b3.isLt]
  simp only [Nat.shiftLeft_eq]
  omega

/-- Settles O13: the four bytes stored read back as the encoding, and those loaded decode. -/
theorem bigEndianStoreAndLoad : Obligations.BigEndianStoreAndLoad := by
  unfold Obligations.BigEndianStoreAndLoad
  intro m a v
  obtain ⟨h0, h1, h2, h3⟩ := Memory.readBytes_four_iff.1 (Memory.readBytes_writeBytes m a (be32Enc v))
  refine ⟨h0, h1, h2, h3, Memory.read32_write32 m a v, ?_, ?_⟩
  · rintro b (hb | hb)
    · exact Memory.read_writeBytes_before m a b _ hb
    · exact Memory.read_writeBytes_after m a b _ hb
  · intro b0 b1 b2 b3 h0 h1 h2 h3
    exact ⟨_, Memory.read32_eq (Memory.readBytes_four_iff.2 ⟨h0, h1, h2, h3⟩), be32Dec_toNat b0 b1 b2 b3⟩

/-! ## `ARG` in the request -/

/-- A sequence of bytes is stored in two parts, one after the other. -/
theorem Memory.writeBytes_append (m : Memory) (a : Nat) (bs cs : Bytes) :
    m.writeBytes a (bs ++ cs) = (m.writeBytes a bs).writeBytes (a + bs.length) cs := by
  induction bs generalizing m a with
  | nil => rfl
  | cons v vs ih =>
    rw [List.cons_append, Memory.writeBytes, Memory.writeBytes, ih, List.length_cons, Nat.add_right_comm,
      Nat.add_assoc]

/-- Bytes stored beyond a 4-byte value leave it as it is. -/
theorem Memory.read32_writeBytes_before (m : Memory) {a b : Nat} (bs : Bytes) (h : a + 4 ≤ b) :
    (m.writeBytes b bs).read32 a = m.read32 a := by
  have hbytes : (m.writeBytes b bs).readBytes a 4 = m.readBytes a 4 :=
    Memory.readBytes_congr fun c _ hc => Memory.read_writeBytes_before m b c bs (by omega)
  rw [Memory.read32, Memory.read32, hbytes]

/-- A 4-byte value stored among other bytes reads back. -/
theorem Memory.read32_writeBytes_be32Enc (m : Memory) (a : Nat) (bs cs : Bytes) (v : Word) :
    (m.writeBytes a (bs ++ be32Enc v ++ cs)).read32 (a + bs.length) = some v := by
  rw [Memory.writeBytes_append, Memory.writeBytes_append,
    Memory.read32_writeBytes_before _ cs (by simp [Nat.add_assoc])]
  exact Memory.read32_write32 _ _ v

/-- The data of a request begin at index 3, and only the checksum byte follows them (R80). -/
theorem requestPayload_append (c : Byte) (d e : Bytes) :
    ∃ head cc, head.length = 3 + d.length ∧ requestPayload c (d ++ e) = head ++ e ++ [cc] :=
  ⟨[Config.addr, c, BitVec.ofNat 8 (d ++ e).length] ++ d, checksum (requestHead c (d ++ e)),
    by rw [List.length_append]; rfl, by simp [requestPayload, requestHead]⟩

/-- In `P_BUILD` an operation's meaning is `Build()`. -/
theorem exec_build {i : Instr} {s : State} (hi : i.isRequest = true) (hp : s.phase = .build) :
    exec i s = buildStep i s := by
  rw [exec_request hi]
  simp only [operate, hp]

/-- Settles O25: of the request stored at index 0, `ARG` follows the three bytes of the head and `CI_PREFIX`. -/
theorem writeRequestCarriesArg : Obligations.WriteRequestCarriesArg := by
  unfold Obligations.WriteRequestCarriesArg
  intro v s t hp ht
  rw [exec_build rfl hp] at ht
  obtain ⟨-, rfl⟩ := buildStep_next ht
  obtain ⟨head, cc, hlen, hpay⟩ := requestPayload_append s.params.codeCi s.params.ciPrefix (be32Enc v)
  have hread := Memory.read32_writeBytes_be32Enc s.txp 0 head [cc] v
  rwa [← hpay, hlen, Nat.zero_add] at hread

end Sys2Proof.Machine

namespace Sys2Proof.Machine

/-! ## The canonical form of the buffers (R50, R54) -/

/-- The three buffers are in canonical form. -/
structure Canonical (s : State) : Prop where
  txp : s.txp.wf
  rxs : s.rxs.wf
  rxp : s.rxp.wf

theorem Canonical.kept {s : State} (h : Canonical s) (b : Byte) : Canonical (kept b s) :=
  { h with rxs := Memory.writeBytes_wf _ _ h.rxs }

theorem Canonical.recvByte_keeps {s t : State} {b : Byte} (h : Canonical s) (ht : recvByte b s = .next t) :
    Canonical t := by
  obtain ⟨-, ⟨-, rfl⟩ | ⟨-, -, rfl⟩ | ⟨-, -, rfl⟩⟩ := recvByte_next ht
  · exact { h.kept b with }
  · exact { h.kept b with }
  · exact h.kept b

theorem Canonical.recvStep_keeps {s t : State} (h : Canonical s) (ht : recvStep s = .next t) : Canonical t := by
  have hpoll : Canonical s.afterPoll := { h with }
  obtain ⟨-, rfl⟩ | ⟨-, rfl⟩ | ⟨b, -, hb⟩ := recvStep_next ht
  · exact hpoll
  · exact { hpoll with }
  · exact hpoll.recvByte_keeps hb

theorem Canonical.checkStep_keeps {s t : State} {bs : Bytes} (h : Canonical s) (ht : checkStep bs s = .next t) :
    Canonical t := by
  obtain ⟨a, ha⟩ := summed_eq bs s
  obtain ⟨-, rfl⟩ | ⟨-, rfl⟩ := checkStep_next ht <;> rw [ha] <;> exact { h with }

theorem Canonical.extractStep_keeps {s t : State} {o : Op} {bs : Bytes} (h : Canonical s)
    (ht : extractStep o bs s = .next t) : Canonical t := by
  cases extractStep_extracted ht with
  | raised _ ht | measured _ _ _ ht | interval _ _ ht | info _ _ _ _ _ ht | plain _ _ _ ht =>
    subst ht
    exact { h with }

/-- Only `P_BUILD`, `P_RECV` and `P_DECODE` store bytes, each in its own buffer. -/
theorem Canonical.engineStep_keeps {s t : State} (h : Canonical s) (ht : engineStep s = .next t) : Canonical t := by
  obtain ⟨-, rfl⟩ | ⟨-, i, -, hx⟩ | ⟨-, hx⟩ | ⟨-, hx⟩ | ⟨-, hx⟩ | ⟨-, hx⟩ |
    ⟨o, bs, -, -, ⟨-, hx⟩ | ⟨-, hx⟩ | ⟨-, hx⟩⟩ := engineStep_phase ht
  · exact h
  · obtain ⟨-, rfl⟩ := buildStep_next hx
    exact { h with txp := Memory.writeBytes_wf _ _ h.txp }
  · obtain ⟨_, -, ⟨-, rfl⟩ | ⟨_, -, rfl⟩⟩ := encodeStep_next hx <;> exact { h with }
  · obtain ⟨_, -, rfl⟩ | ⟨-, rfl⟩ := sendStep_next hx <;> exact { h with }
  · exact h.recvStep_keeps hx
  · obtain ⟨_, -, ⟨-, rfl⟩ | ⟨r, -, rfl⟩⟩ := decodeStep_next hx
    · exact { h with }
    · exact { h with rxp := Memory.writeBytes_wf 0 r .nil }
  · exact h.checkStep_keeps hx
  · obtain ⟨_, -, ⟨_, -, rfl⟩ | ⟨-, rfl⟩⟩ := validateStep_next hx <;> exact { h with }
  · exact h.extractStep_keeps hx

/-- An operation presented is started in `P_IDLE`, and in every other phase the engine's step runs it. -/
theorem exec_presented_cases {u t : State} {i : Instr} (hi : u.presented = some i) (hx : exec i u = .next t) :
    t = u.start ∨ engineStep u = .next t := by
  by_cases hp : u.phase = .idle
  · rw [exec_request (State.presented_spec hi).1] at hx
    simp only [operate, hp] at hx
    obtain ⟨-, rfl⟩ := startStep_next hx
    exact .inl (by rw [State.present_of_presented hi])
  · rw [exec_request (State.presented_spec hi).1, ← engineStep_operate hi hp] at hx
    exact .inr hx

theorem Canonical.drawOperands {s : State} (h : Canonical s) : Canonical s.drawOperands where
  txp := by simpa using h.txp
  rxs := by simpa using h.rxs
  rxp := by simpa using h.rxp

/-- *Start* and the reset input empty the buffers; every other move of the host leaves them to the engine. -/
theorem Canonical.hostStep_keeps {s t : State} {m : HostMove} (h : Canonical s) (ht : hostStep m s = .next t) :
    Canonical t := by
  obtain ⟨-, hx⟩ | ⟨-, o, a, x, rfl⟩ | ⟨-, -, u, i, hu, hi, hx⟩ | ⟨v, n, rfl⟩ | ⟨-, rfl⟩ := hostStep_cases ht
  · exact h.engineStep_keeps hx
  · exact { h with }
  · obtain rfl | hx := exec_presented_cases hi hx
    · exact ⟨.nil, .nil, .nil⟩
    · have hcan : Canonical u := by
        obtain rfl | rfl := hu
        · exact h
        · exact h.drawOperands
      exact hcan.engineStep_keeps hx
  · exact { h with }
  · exact ⟨.nil, .nil, .nil⟩

/-- Settles O14, by the cases of a step. -/
theorem stepsKeepBuffersCanonical : Obligations.StepsKeepBuffersCanonical := by
  unfold Obligations.StepsKeepBuffersCanonical
  intro s t htxp hrxs hrxp ht
  have h : Canonical s := ⟨htxp, hrxs, hrxp⟩
  have ht : Canonical t := by
    obtain ⟨-, hx⟩ | ⟨m, rest, -, hx⟩ := step_cases ht
    · exact h.engineStep_keeps hx
    · have hpop : Canonical { s with host := rest } := { h with }
      exact hpop.hostStep_keeps hx
  exact ⟨ht.txp, ht.rxs, ht.rxp⟩

end Sys2Proof.Machine

namespace Sys2Proof.Machine

/-! ## The ports (R55, R57, R60) -/

/-- What has crossed the ports so far. -/
structure Traffic where
  /-- how many `TX.write_all` calls have been made -/
  writes : Nat
  /-- the bytes the transport has accepted -/
  wire : Bytes
  /-- how many `RX.poll` calls have been made -/
  polls : Nat
  /-- how many bytes have been consumed -/
  taken : Nat

/-- The record of the ports that the state keeps. -/
def State.traffic (s : State) : Traffic := ⟨s.writes, s.wire, s.polls, s.taken⟩

/-- How a step taken in phase `p` can use the ports: not at all, by one write in `P_SEND`, or by one poll in
`P_RECV`. -/
inductive PortUse (p : Phase) (a : Traffic) : Traffic → Prop where
  | unused : PortUse p a a
  | write (hp : p = .send) (sent : Bytes) : PortUse p a { a with writes := a.writes + 1, wire := a.wire ++ sent }
  | poll (hp : p = .recv) (n : Nat) (hn : n ≤ 1) :
      PortUse p a { a with polls := a.polls + 1, taken := a.taken + n }

theorem sendStep_portUse {s t : State} (hp : s.phase = .send) (ht : sendStep s = .next t) :
    PortUse s.phase s.traffic t.traffic := by
  obtain ⟨_, -, rfl⟩ | ⟨-, rfl⟩ := sendStep_next ht <;> exact .write hp _

/-- A poll takes one byte or none (R57). -/
theorem afterPoll_portUse {s : State} (hp : s.phase = .recv) : PortUse s.phase s.traffic s.afterPoll.traffic := by
  unfold State.traffic State.afterPoll
  cases s.rxNext with
  | byte b => exact .poll hp 1 (Nat.le_refl 1)
  | wouldBlock => exact .poll hp 0 (Nat.zero_le 1)
  | fail => exact .poll hp 0 (Nat.zero_le 1)

/-- Keeping a byte uses no port. -/
theorem recvByte_traffic {s t : State} {b : Byte} (ht : recvByte b s = .next t) : t.traffic = s.traffic := by
  obtain ⟨-, ⟨-, rfl⟩ | ⟨-, -, rfl⟩ | ⟨-, -, rfl⟩⟩ := recvByte_next ht <;> rfl

theorem recvStep_portUse {s t : State} (hp : s.phase = .recv) (ht : recvStep s = .next t) :
    PortUse s.phase s.traffic t.traffic := by
  have hpoll := afterPoll_portUse hp
  obtain ⟨-, rfl⟩ | ⟨-, rfl⟩ | ⟨b, -, hb⟩ := recvStep_next ht
  · exact hpoll
  · exact hpoll
  · exact recvByte_traffic hb ▸ hpoll

theorem extractStep_traffic {s t : State} {o : Op} {bs : Bytes} (ht : extractStep o bs s = .next t) :
    t.traffic = s.traffic := by
  cases extractStep_extracted ht with
  | raised _ ht | measured _ _ _ ht | interval _ _ ht | info _ _ _ _ _ ht | plain _ _ _ ht =>
    subst ht
    rfl

theorem checkStep_traffic {s t : State} {bs : Bytes} (ht : checkStep bs s = .next t) : t.traffic = s.traffic := by
  obtain ⟨a, ha⟩ := summed_eq bs s
  obtain ⟨-, rfl⟩ | ⟨-, rfl⟩ := checkStep_next ht <;> rw [ha] <;> rfl

/-- Every phase action but `Send()` and `RecvStep()` leaves the ports alone. -/
theorem engineStep_portUse {s t : State} (ht : engineStep s = .next t) : PortUse s.phase s.traffic t.traffic := by
  obtain ⟨-, rfl⟩ | ⟨-, i, -, hx⟩ | ⟨-, hx⟩ | ⟨hp, hx⟩ | ⟨hp, hx⟩ | ⟨-, hx⟩ |
    ⟨o, bs, -, -, ⟨-, hx⟩ | ⟨-, hx⟩ | ⟨-, hx⟩⟩ := engineStep_phase ht
  · exact .unused
  · obtain ⟨-, rfl⟩ := buildStep_next hx
    exact .unused
  · obtain ⟨_, -, ⟨-, rfl⟩ | ⟨_, -, rfl⟩⟩ := encodeStep_next hx <;> exact .unused
  · exact sendStep_portUse hp hx
  · exact recvStep_portUse hp hx
  · obtain ⟨_, -, ⟨-, rfl⟩ | ⟨_, -, rfl⟩⟩ := decodeStep_next hx <;> exact .unused
  · rw [checkStep_traffic hx]
    exact .unused
  · obtain ⟨_, -, ⟨_, -, rfl⟩ | ⟨-, rfl⟩⟩ := validateStep_next hx <;> exact .unused
  · rw [extractStep_traffic hx]
    exact .unused

@[simp] theorem State.drawOperands_traffic (s : State) : s.drawOperands.traffic = s.traffic := by
  simp [State.traffic]

/-- The reset input abandons the write `P_SEND` has under way (R231), and uses no port in any other phase. -/
theorem engineReset_portUse (s : State) : PortUse s.phase s.traffic s.engineReset.traffic := by
  simp only [State.traffic, State.engineReset, State.abandon]
  split
  · exact .write ‹_› _
  · exact .unused

theorem hostStep_portUse {s t : State} {m : HostMove} (ht : hostStep m s = .next t) :
    PortUse s.phase s.traffic t.traffic := by
  obtain ⟨-, hx⟩ | ⟨-, o, a, x, rfl⟩ | ⟨-, -, u, i, hu, hi, hx⟩ | ⟨v, n, rfl⟩ | ⟨-, rfl⟩ := hostStep_cases ht
  · exact engineStep_portUse hx
  · exact .unused
  · have hport : PortUse u.phase u.traffic t.traffic := by
      obtain rfl | hx := exec_presented_cases hi hx
      · exact .unused
      · exact engineStep_portUse hx
    obtain rfl | rfl := hu
    · exact hport
    · simpa using hport
  · exact .unused
  · exact engineReset_portUse s

theorem step_portUse {s t : State} (ht : step s = .next t) : PortUse s.phase s.traffic t.traffic := by
  obtain ⟨-, hx⟩ | ⟨m, rest, -, hx⟩ := step_cases ht
  · exact engineStep_portUse hx
  · exact hostStep_portUse (s := { s with host := rest }) hx

/-- The rules of R60 and R25 for each use of the ports. -/
theorem PortUse.rules {p : Phase} {a b : Traffic} (h : PortUse p a b) :
    (b.writes ≠ a.writes ∨ b.wire ≠ a.wire → p = .send) ∧ (b.polls ≠ a.polls ∨ b.taken ≠ a.taken → p = .recv) ∧
      a.writes ≤ b.writes ∧ b.writes ≤ a.writes + 1 ∧ a.polls ≤ b.polls ∧ b.polls ≤ a.polls + 1 ∧
      b.taken - a.taken ≤ b.polls - a.polls ∧ ∃ sent, b.wire = a.wire ++ sent := by
  cases h with
  | unused => simp
  | write hp sent => simp [hp]
  | poll hp n hn => simpa [hp] using hn

/-- Settles O50: the use a step makes of the ports keeps the rules. -/
theorem portsAreUsedInTheirPhasesOnly : Obligations.PortsAreUsedInTheirPhasesOnly := by
  unfold Obligations.PortsAreUsedInTheirPhasesOnly
  intro s t ht
  exact (step_portUse ht).rules

end Sys2Proof.Machine

namespace Sys2Proof

/-! ## What the encoder writes -/

/-- The payload of a request row is the request of its operation's code and data (R80). -/
theorem encode_of_request {i : Instr} (h : i.isRequest = true) (p : Params) :
    encode p i = requestPayload (codeOf p i.opOf) (requestData p i) := by
  cases i <;> cases h <;> rfl

/-- Response row `i` has these values in the fields its row leaves free (R83, R90). -/
structure Instr.HasFields (i : Instr) (a : Byte) (data : Bytes) (cc : Byte) : Prop where
  payload : ∀ p, encode p i = responsePayload a (codeOf p i.opOf) data cc
  fits : i.wf = true → data.length ≤ 255
  read : i.wf = true → responseOf i.opOf a data cc = .ok i

/-- Ten values are the data of a full measurement (R183). -/
theorem length_flatMap_be32Enc_of_ten {values : List Word} (h : values.length = Config.nMeas) :
    (values.flatMap be32Enc).length = Config.measData := by
  rw [length_flatMap_be32Enc, h]
  rfl

/-- Every response row has its three free fields. -/
theorem Instr.exists_hasFields {i : Instr} (h : i.isRequest = false) : ∃ a data cc, i.HasFields a data cc := by
  cases i with
  | startMeasurementRsp a data cc => exact ⟨a, data, cc, fun _ => rfl, of_decide_eq_true, fun _ => rfl⟩
  | stopMeasurementRsp a data cc => exact ⟨a, data, cc, fun _ => rfl, of_decide_eq_true, fun _ => rfl⟩
  | startFanCleaningRsp a data cc => exact ⟨a, data, cc, fun _ => rfl, of_decide_eq_true, fun _ => rfl⟩
  | resetRsp a data cc => exact ⟨a, data, cc, fun _ => rfl, of_decide_eq_true, fun _ => rfl⟩
  | readMeasurementRsp a values cc =>
    have hlen (hwf : (Instr.readMeasurementRsp a values cc).wf = true) :=
      length_flatMap_be32Enc_of_ten (of_decide_eq_true hwf)
    refine ⟨a, values.flatMap be32Enc, cc, fun _ => rfl, fun hwf => ?_, fun hwf => ?_⟩
    · rw [hlen hwf]
      decide
    · simp only [Instr.opOf, responseOf, if_pos (hlen hwf), f32Groups_flatMap]
  | readCleaningIntervalRsp a value cc =>
    refine ⟨a, be32Enc value, cc, fun _ => rfl, fun _ => by simp, fun _ => ?_⟩
    simp only [Instr.opOf, be32Enc, responseOf, be32Dec_be32Enc]
  | writeCleaningIntervalRsp a cc => exact ⟨a, [], cc, fun _ => rfl, fun _ => Nat.zero_le _, fun _ => rfl⟩
  | deviceInfoRsp a data cc =>
    exact ⟨a, data, cc, fun _ => rfl, fun hwf => Nat.le_trans (of_decide_eq_true hwf) (by decide),
      fun hwf => if_pos (of_decide_eq_true hwf)⟩
  | _ => cases h

/-- A request payload gives back its code and its data. -/
theorem requestPayload_inj {c c' : Byte} {d d' : Bytes} (h : requestPayload c d = requestPayload c' d') :
    c = c' ∧ d = d' := by
  obtain ⟨hhead, -⟩ := List.append_inj' h rfl
  simp only [requestHead, List.cons_append, List.nil_append, List.cons.injEq] at hhead
  obtain ⟨-, hc, -, hd⟩ := hhead
  exact ⟨hc, hd⟩

/-- A response payload gives back its free fields and its code. -/
theorem responsePayload_inj {a a' c c' cc cc' : Byte} {d d' : Bytes}
    (h : responsePayload a c d cc = responsePayload a' c' d' cc') : a = a' ∧ c = c' ∧ d = d' ∧ cc = cc' := by
  obtain ⟨hhead, hcc⟩ := List.append_inj' h rfl
  simp only [responseHead, List.cons_append, List.nil_append, List.cons.injEq] at hhead hcc
  obtain ⟨ha, hc, -, -, hd⟩ := hhead
  exact ⟨ha, hc, hd, hcc.1⟩

/-- The third byte tells a request from a response: a response has state 0 there (R83), and a request as long as a
response has at least one data byte (R80). -/
theorem requestPayload_ne_responsePayload {a c c' cc : Byte} {d d' : Bytes} (hd : d.length ≤ 255) :
    requestPayload c d ≠ responsePayload a c' d' cc := by
  intro h
  have hlen := congrArg List.length h
  simp only [requestPayload_length, responsePayload_length] at hlen
  have hthird : BitVec.ofNat 8 d.length = Config.stateOk := Option.some.inj (congrArg (·[2]?) h)
  have hzero : d.length % 256 = 0 := congrArg BitVec.toNat hthird
  omega

/-! ## What the decoder reads -/

/-- The length byte of at most 255 data bytes. -/
theorem toNat_ofNat_length {d : Bytes} (h : d.length ≤ 255) : (BitVec.ofNat 8 d.length).toNat = d.length := by
  rw [BitVec.toNat_ofNat, Nat.mod_eq_of_lt (by omega)]

/-- A request payload is read by its code and its data. -/
theorem decodeRequest_requestPayload (p : Params) (c : Byte) {d : Bytes} (h : d.length ≤ 255) :
    decodeRequest p (requestPayload c d) = requestOf p c d := by
  simp [requestPayload, requestHead, decodeRequest, toNat_ofNat_length h, -BitVec.toNat_ofNat]

/-- A response payload is read against the row of an operation with its code. -/
theorem decodeResponseFor_responsePayload (p : Params) (o : Op) (a cc : Byte) {d : Bytes} (h : d.length ≤ 255) :
    decodeResponseFor p o (responsePayload a (codeOf p o) d cc) = responseOf o a d cc := by
  simp [responsePayload, responseHead, decodeResponseFor, toNat_ofNat_length h, -BitVec.toNat_ofNat]

/-- All that a request read by the decoder can be. -/
theorem decodeRequest_ok {p : Params} {bs : Bytes} {i : Instr} (h : decodeRequest p bs = .ok i) :
    ∃ c d, d.length ≤ 255 ∧ bs = requestPayload c d ∧ requestOf p c d = .ok i := by
  unfold decodeRequest at h
  split at h
  case h_2 => cases h
  rename_i a c l rest
  split at h
  case h_1 => cases h
  rename_i cc hcc
  split_ifs at h with ha hlen hsum
  have hl := l.isLt
  refine ⟨c, rest.dropLast, by omega, ?_, h⟩
  rw [requestPayload, requestHead, ofNat_of_toNat_eq (not_not.1 hlen), ← not_not.1 ha]
  simp only [List.cons_append, List.nil_append, ← not_not.1 hsum, dropLast_append_of_getLast? hcc]

/-- A selector read has the code it was read from (R88). -/
theorem selOf_eq_some {p : Params} {b : Byte} {x : Selector} (h : selOf p b = some x) : selCode p x = b := by
  unfold selOf at h
  split_ifs at h with h1 h2 h3 <;> cases h
  · exact h1.symm
  · exact h2.symm
  · exact h3.symm

/-- The data an `ARG` is read from are `CI_PREFIX` and its encoding (R86). -/
theorem writeArgOf_eq_some {p : Params} {d : Bytes} {v : Word} (h : writeArgOf p d = some v) :
    d = p.ciPrefix ++ be32Enc v := by
  unfold writeArgOf at h
  split at h
  case isFalse => cases h
  rename_i hprefix
  split at h
  case h_2 => cases h
  rename_i b0 b1 b2 b3 hrest
  cases h
  have hsplit := List.take_append_drop p.ciPrefix.length d
  rw [hprefix, hrest] at hsplit
  rw [be32Enc_be32Dec, hsplit]

/-- The operation read from a request's code and data has that code and those data (R86, R87). -/
theorem requestOf_ok {p : Params} {c : Byte} {d : Bytes} {i : Instr} (h : requestOf p c d = .ok i) :
    i.isRequest = true ∧ codeOf p i.opOf = c ∧ requestData p i = d := by
  unfold requestOf at h
  iterate 6
    split at h
    next hrow => cases h; exact ⟨rfl, hrow.1.symm, hrow.2.symm⟩
  split at h
  next v hv =>
    obtain ⟨hc, hv⟩ := Option.ite_none_right_eq_some.1 hv
    cases h
    exact ⟨rfl, hc.symm, (writeArgOf_eq_some hv).symm⟩
  split at h
  next x hx =>
    obtain ⟨⟨hc, hlen⟩, hx⟩ := Option.ite_none_right_eq_some.1 hx
    obtain ⟨b, rfl⟩ := List.length_eq_one_iff.1 hlen
    cases h
    exact ⟨rfl, hc.symm, congrArg (fun b => [b]) (selOf_eq_some hx)⟩
  next => cases h

/-- The data `CI_PREFIX ++ BE32Enc(ARG)` are read as that `ARG` (R86). -/
theorem writeArgOf_append (p : Params) (v : Word) : writeArgOf p (p.ciPrefix ++ be32Enc v) = some v := by
  unfold writeArgOf
  rw [if_pos List.take_left, List.drop_left]
  exact congrArg some (be32Dec_be32Enc v)

/-- Every selector's code is read as a selector (R88). -/
theorem selOf_selCode_ne_none (p : Params) (x : Selector) : selOf p (selCode p x) ≠ none := by
  unfold selOf
  cases x <;> split_ifs <;> simp_all [selCode]

/-- The code and data of every operation are read as some operation's. Where codes are equal it may be another's. -/
theorem exists_requestOf (p : Params) {i : Instr} (h : i.isRequest = true) :
    ∃ j, requestOf p (codeOf p i.opOf) (requestData p i) = .ok j := by
  generalize hc : codeOf p i.opOf = c
  generalize hd : requestData p i = d
  unfold requestOf
  iterate 6
    split
    next => exact ⟨_, rfl⟩
  split
  next => exact ⟨_, rfl⟩
  split
  next => exact ⟨_, rfl⟩
  next hwrite _ hinfo =>
  exfalso
  subst hc hd
  cases i with
  | writeCleaningInterval v => simp [codeOf, Instr.opOf, requestData, writeArgOf_append] at hwrite
  | deviceInfo x => simp [codeOf, Instr.opOf, requestData, selOf_selCode_ne_none] at hinfo
  | _ => simp_all [codeOf, Instr.opOf, requestData, Instr.isRequest]

/-- A response read by the decoder is read against the row of one of the operations tried. -/
theorem decodeResponseAmong_ok {p : Params} {bs : Bytes} {os : List Op} {i : Instr}
    (h : decodeResponseAmong p bs os = .ok i) : ∃ o ∈ os, decodeResponseFor p o bs = .ok i := by
  induction os with
  | nil => cases h
  | cons o os ih =>
    rw [decodeResponseAmong] at h
    split at h
    next j hj =>
      cases h
      exact ⟨o, List.mem_cons_self, hj⟩
    next =>
      split at h
      next j hj =>
        cases h
        obtain ⟨o', ho', hi⟩ := ih hj
        exact ⟨o', List.mem_cons_of_mem o ho', hi⟩
      next => cases h

/-- A payload that one of the operations' rows matches is read. -/
theorem exists_decodeResponseAmong {p : Params} {bs : Bytes} {os : List Op} {o : Op} {i : Instr} (ho : o ∈ os)
    (h : decodeResponseFor p o bs = .ok i) : ∃ j, decodeResponseAmong p bs os = .ok j := by
  induction os with
  | nil => cases ho
  | cons o' os ih =>
    rw [decodeResponseAmong]
    split
    next j hj => exact ⟨j, rfl⟩
    next e he =>
      obtain rfl | ho := List.mem_cons.1 ho
      · cases he.symm.trans h
      · obtain ⟨j, hj⟩ := ih ho
        exact ⟨j, by rw [hj]⟩

theorem Op.mem_all (o : Op) : o ∈ Op.all := by cases o <;> decide

/-- What the decoder reads, it reads as a request or as a response. -/
theorem decode_ok {p : Params} {bs : Bytes} {i : Instr} (h : decode p bs = .ok i) :
    decodeRequest p bs = .ok i ∨ decodeResponse p bs = .ok i := by
  unfold decode at h
  split at h
  next j hj => cases h; exact .inl hj
  next =>
    split at h
    next j hj => cases h; exact .inr hj
    next => cases h

/-- A request is read by the decoder. -/
theorem decode_of_decodeRequest {p : Params} {bs : Bytes} {i : Instr} (h : decodeRequest p bs = .ok i) :
    decode p bs = .ok i := by
  rw [decode, h]

/-- A response is read by the decoder. -/
theorem exists_decode_of_decodeResponse {p : Params} {bs : Bytes} {i : Instr} (h : decodeResponse p bs = .ok i) :
    ∃ j, decode p bs = .ok j := by
  unfold decode
  split
  · exact ⟨_, rfl⟩
  · exact ⟨i, by rw [h]⟩

/-! ## What decodes is an encoding -/

/-- Every request row is well formed. -/
theorem Instr.wf_of_isRequest {i : Instr} (h : i.isRequest = true) : i.wf = true := by
  cases i <;> cases h <;> rfl

/-- All that a request read can be: a request row whose encoding is the payload read, its data length untruncated. -/
theorem decodeRequest_spec {p : Params} {bs : Bytes} {i : Instr} (h : decodeRequest p bs = .ok i) :
    i.isRequest = true ∧ (requestData p i).length ≤ 255 ∧ encode p i = bs := by
  obtain ⟨c, d, hlen, rfl, hrow⟩ := decodeRequest_ok h
  obtain ⟨hi, rfl, rfl⟩ := requestOf_ok hrow
  exact ⟨hi, hlen, encode_of_request hi p⟩

/-- All that a response read can be: a well-formed response row whose encoding is the payload read. -/
theorem decodeResponse_spec {p : Params} {bs : Bytes} {i : Instr} (h : decodeResponse p bs = .ok i) :
    i.isRequest = false ∧ i.wf = true ∧ encode p i = bs := by
  obtain ⟨o, -, ho⟩ := decodeResponseAmong_ok h
  obtain ⟨hi, -, hwf, hbs⟩ := decodeResponseFor_spec ho
  exact ⟨hi, hwf, hbs⟩

/-- All that the decoder answers is well formed and encodes to what was read. -/
theorem decode_spec {p : Params} {bs : Bytes} {i : Instr} (h : decode p bs = .ok i) :
    i.wf = true ∧ encode p i = bs := by
  obtain h | h := decode_ok h
  · obtain ⟨hi, -, hbs⟩ := decodeRequest_spec h
    exact ⟨Instr.wf_of_isRequest hi, hbs⟩
  · exact (decodeResponse_spec h).2

/-- Settles O2: what the decoder reads, by either kind of row, is an encoding. -/
theorem encodeOfDecodeIsThePayload : Obligations.EncodeOfDecodeIsThePayload := by
  unfold Obligations.EncodeOfDecodeIsThePayload
  intro p bs i
  exact decode_spec

/-- The encoding of a request row with untruncated data length is not that of a response row. -/
theorem encode_request_ne_response {p : Params} {i j : Instr} (hi : i.isRequest = true) (hj : j.isRequest = false)
    (hlen : (requestData p i).length ≤ 255) : encode p i ≠ encode p j := by
  obtain ⟨a, data, cc, hfields⟩ := Instr.exists_hasFields hj
  rw [encode_of_request hi, hfields.payload]
  exact requestPayload_ne_responsePayload hlen

/-- Settles O3: both would be an encoding of the payload, of a request and of a response. -/
theorem noPayloadIsBothRequestAndResponse : Obligations.NoPayloadIsBothRequestAndResponse := by
  unfold Obligations.NoPayloadIsBothRequestAndResponse
  intro p bs i j hreq hrsp
  obtain ⟨hi, hlen, hibs⟩ := decodeRequest_spec hreq
  obtain ⟨hj, -, hjbs⟩ := decodeResponse_spec hrsp
  exact encode_request_ne_response hi hj hlen (hibs.trans hjbs.symm)

/-! ## Every encoding decodes -/

/-- The payload of a well-formed response row is read against its own operation's row as that row. -/
theorem decodeResponseFor_encode (p : Params) {i : Instr} (hi : i.isRequest = false) (hwf : i.wf = true) :
    decodeResponseFor p i.opOf (encode p i) = .ok i := by
  obtain ⟨a, data, cc, hfields⟩ := Instr.exists_hasFields hi
  rw [hfields.payload, decodeResponseFor_responsePayload p _ a cc (hfields.fits hwf), hfields.read hwf]

/-- The decoder accepts the encoding of every well-formed instruction, whatever the codes. -/
theorem exists_decode_encode {p : Params} {i : Instr} (hp : p.wf = true) (hi : i.wf = true) :
    ∃ j, decode p (encode p i) = .ok j := by
  cases hreq : i.isRequest with
  | true =>
    obtain ⟨j, hj⟩ := exists_requestOf p hreq
    rw [← decodeRequest_requestPayload p _ (Machine.requestData_length_le hp i), ← encode_of_request hreq] at hj
    exact ⟨j, decode_of_decodeRequest hj⟩
  | false =>
    obtain ⟨j, hj⟩ := exists_decodeResponseAmong (Op.mem_all i.opOf) (decodeResponseFor_encode p hreq hi)
    exact exists_decode_of_decodeResponse hj

/-! ## With distinct codes the encoding is injective -/

/-- With distinct command codes, only the two cleaning-interval operations share one (R87). -/
theorem Params.eq_or_interval_of_codeOf_eq {p : Params} {o o' : Op} (hp : p.distinct = true)
    (h : codeOf p o = codeOf p o') :
    o = o' ∨ (o = .readCleaningInterval ∧ o' = .writeCleaningInterval) ∨
      (o = .writeCleaningInterval ∧ o' = .readCleaningInterval) := by
  have hcodes := of_decide_eq_true (Bool.and_eq_true_iff.1 hp).1
  cases o <;> cases o' <;> simp_all [codeOf]

/-- With distinct selector codes, a selector's code names it (R88). -/
theorem Params.selCode_injective {p : Params} (hp : p.distinct = true) : Function.Injective (selCode p) := by
  have hcodes := of_decide_eq_true (Bool.and_eq_true_iff.1 hp).2
  intro x y h
  cases x <;> cases y <;> simp_all [selCode]

/-- `BE32Enc` loses nothing. -/
theorem be32Enc_injective : Function.Injective be32Enc := by
  intro v w h
  have hgroups := congrArg f32Groups h
  simpa [be32Enc, f32Groups, f32Dec, be32Dec_be32Enc] using hgroups

/-- With distinct selector codes, a request row is its operation and its data. -/
theorem requestData_inj {p : Params} {i j : Instr} (hp : p.distinct = true) (hi : i.isRequest = true)
    (hj : j.isRequest = true) (ho : i.opOf = j.opOf) (hd : requestData p i = requestData p j) : i = j := by
  cases i <;> cases hi <;> cases j <;> cases hj <;> cases ho
  case writeCleaningInterval.refl.writeCleaningInterval.refl.refl v w =>
    rw [be32Enc_injective (List.append_cancel_left hd)]
  case deviceInfo.refl.deviceInfo.refl.refl x y =>
    rw [Params.selCode_injective hp (List.singleton_inj.1 hd)]
  all_goals rfl

/-- The two cleaning-interval requests differ in the number of their data bytes (R86). -/
theorem requestData_read_ne_write {p : Params} {i j : Instr} (hi : i.isRequest = true) (hj : j.isRequest = true)
    (hio : i.opOf = .readCleaningInterval) (hjo : j.opOf = .writeCleaningInterval) :
    requestData p i ≠ requestData p j := by
  intro h
  have hlen := congrArg List.length h
  cases i <;> cases hi <;> cases hio
  cases j <;> cases hj <;> cases hjo
  simp [requestData] at hlen

/-- The two cleaning-interval response rows take different numbers of data bytes (R90). -/
theorem responseOf_read_ne_write {a cc : Byte} {d : Bytes} {i j : Instr}
    (hi : responseOf .readCleaningInterval a d cc = .ok i) : responseOf .writeCleaningInterval a d cc ≠ .ok j := by
  cases d with
  | nil => cases hi
  | cons b d => nofun

/-- A request row's command code and data name it, where codes are distinct. -/
theorem request_inj {p : Params} {i j : Instr} (hp : p.distinct = true) (hi : i.isRequest = true)
    (hj : j.isRequest = true) (hc : codeOf p i.opOf = codeOf p j.opOf) (hd : requestData p i = requestData p j) :
    i = j := by
  obtain ho | ⟨hio, hjo⟩ | ⟨hio, hjo⟩ := Params.eq_or_interval_of_codeOf_eq hp hc
  · exact requestData_inj hp hi hj ho hd
  · exact absurd hd (requestData_read_ne_write hi hj hio hjo)
  · exact absurd hd.symm (requestData_read_ne_write hj hi hjo hio)

/-- A response row's command code and free fields name it, where codes are distinct. -/
theorem response_inj {p : Params} {o o' : Op} {a cc : Byte} {d : Bytes} {i j : Instr} (hp : p.distinct = true)
    (hc : codeOf p o = codeOf p o') (hi : responseOf o a d cc = .ok i) (hj : responseOf o' a d cc = .ok j) :
    i = j := by
  obtain rfl | ⟨rfl, rfl⟩ | ⟨rfl, rfl⟩ := Params.eq_or_interval_of_codeOf_eq hp hc
  · exact Except.ok.inj (hi.symm.trans hj)
  · exact absurd hj (responseOf_read_ne_write hi)
  · exact absurd hi (responseOf_read_ne_write hj)

/-- With distinct codes, no two well-formed instructions have the same encoding. -/
theorem encode_injective {p : Params} {i j : Instr} (hp : p.wf = true) (hd : p.distinct = true) (hi : i.wf = true)
    (hj : j.wf = true) (h : encode p i = encode p j) : i = j := by
  cases hri : i.isRequest <;> cases hrj : j.isRequest
  case true.false =>
    exact absurd h (encode_request_ne_response hri hrj (Machine.requestData_length_le hp i))
  case false.true =>
    exact absurd h.symm (encode_request_ne_response hrj hri (Machine.requestData_length_le hp j))
  case true.true =>
    rw [encode_of_request hri, encode_of_request hrj] at h
    obtain ⟨hc, hdata⟩ := requestPayload_inj h
    exact request_inj hd hri hrj hc hdata
  case false.false =>
    obtain ⟨a, data, cc, hfi⟩ := Instr.exists_hasFields hri
    obtain ⟨a', data', cc', hfj⟩ := Instr.exists_hasFields hrj
    rw [hfi.payload, hfj.payload] at h
    obtain ⟨rfl, hc, rfl, rfl⟩ := responsePayload_inj h
    exact response_inj hd hc (hfi.read hi) (hfj.read hj)

/-- Settles O1: the decoder accepts the encoding, what it answers has the same encoding (O2), and no other
well-formed instruction has it. -/
theorem decodeOfEncodeIsTheInstruction : Obligations.DecodeOfEncodeIsTheInstruction := by
  unfold Obligations.DecodeOfEncodeIsTheInstruction
  intro p i hp hd hi
  obtain ⟨j, hj⟩ := exists_decode_encode hp hi
  obtain ⟨hwf, hbs⟩ := decode_spec hj
  rw [hj, encode_injective hp hd hwf hi hbs]

/-- Settles O4, word by word. -/
theorem tableWordsDecode : Obligations.TableWordsDecode := by
  unfold Obligations.TableWordsDecode
  refine ⟨?_, ?_, ?_, ?_, ?_, ?_, ?_⟩ <;> decide

/-- A request has its number of data bytes third, and one checksum byte after the data (R80, R81). -/
theorem requestPayload_dataLength (c : Byte) {d : Bytes} (h : d.length ≤ 255) :
    ((requestPayload c d)[2]?).map BitVec.toNat = some d.length :=
  congrArg some (toNat_ofNat_length h)

/-- Settles O6: every request's data fit its `data-length` byte. -/
theorem dataLengthNeverTruncates : Obligations.DataLengthNeverTruncates := by
  unfold Obligations.DataLengthNeverTruncates
  intro p i hp
  have hlen := Machine.requestData_length_le hp i
  refine ⟨hlen, fun hi => ?_⟩
  rw [encode_of_request hi]
  exact ⟨requestPayload_length _ _, requestPayload_dataLength _ hlen⟩

end Sys2Proof

namespace Sys2Proof.Machine

/-! ## Byte sums and the checksum (R110, R111) -/

@[simp] theorem byteSum_nil : byteSum [] = 0 := rfl

@[simp] theorem byteSum_cons (b : Byte) (bs : Bytes) : byteSum (b :: bs) = b.toNat + byteSum bs := rfl

@[simp] theorem byteSum_append (bs cs : Bytes) : byteSum (bs ++ cs) = byteSum bs + byteSum cs := by
  simp [byteSum]

/-- The accumulator holds the byte sum modulo 256. -/
theorem sum8_toNat (bs : Bytes) : (sum8 bs).toNat = byteSum bs % 256 := by
  induction bs using List.reverseRecOn with
  | nil => rfl
  | append_singleton bs b ih =>
    rw [sum8_append_singleton, BitVec.toNat_add, ih]
    simp

theorem checksum_toNat (bs : Bytes) : (checksum bs).toNat = 255 - byteSum bs % 256 := by
  have hlt : byteSum bs % 256 < 256 := Nat.mod_lt _ (by decide)
  rw [checksum, BitVec.toNat_sub, sum8_toNat, show (255 : Byte).toNat = 255 from rfl]
  omega

/-- A last byte is the checksum of the rest exactly when all the bytes sum to 255 modulo 256. -/
theorem eq_checksum_iff (bs : Bytes) (cc : Byte) : cc = checksum bs ↔ byteSum (bs ++ [cc]) % 256 = 255 := by
  have hcc := cc.isLt
  rw [← BitVec.toNat_inj, checksum_toNat]
  simp only [byteSum_append, byteSum_cons, byteSum_nil]
  omega

/-- The comparison of `P_CHECK` as arithmetic (R139). -/
theorem checksumMatches_iff {bs : Bytes} (h : bs ≠ []) : checksumMatches bs = true ↔ byteSum bs % 256 = 255 := by
  have hlast := List.getLast?_eq_getLast_of_ne_nil h
  rw [checksumMatches, hlast, decide_eq_true_iff, eq_checksum_iff, dropLast_append_of_getLast? hlast]

/-- A request byte by byte, its checksum byte as arithmetic (R80, R110). -/
theorem requestPayload_bytes (c : Byte) (d : Bytes) :
    ∃ cc : Byte, requestPayload c d = [0x00, c, BitVec.ofNat 8 d.length] ++ d ++ [cc] ∧
      cc.toNat = 255 - (c.toNat + d.length + byteSum d) % 256 := by
  refine ⟨checksum (requestHead c d), rfl, ?_⟩
  rw [checksum_toNat]
  have haddr : Config.addr.toNat = 0 := rfl
  simp only [requestHead, haddr, byteSum_append, byteSum_cons, byteSum_nil, BitVec.toNat_ofNat]
  omega

/-- The cleaning-interval read request for every `CI_PREFIX` (R86). -/
theorem encode_readCleaningInterval_bytes (q : Bytes) :
    ∃ cc : Byte, encode { defaultParams with ciPrefix := q } .readCleaningInterval =
        [0x00, 0x80, BitVec.ofNat 8 q.length] ++ q ++ [cc] ∧
      cc.toNat = 255 - (0x80 + q.length + byteSum q) % 256 :=
  requestPayload_bytes 0x80 q

/-- The cleaning-interval write request for every `CI_PREFIX` and `ARG` (R86). -/
theorem encode_writeCleaningInterval_bytes (q : Bytes) (v3 v2 v1 v0 : Byte) :
    ∃ cc : Byte, encode { defaultParams with ciPrefix := q } (.writeCleaningInterval (v3 ++ v2 ++ v1 ++ v0)) =
        [0x00, 0x80, BitVec.ofNat 8 (q.length + 4)] ++ q ++ [v3, v2, v1, v0, cc] ∧
      cc.toNat = 255 -
        (0x80 + (q.length + 4) + byteSum q + v3.toNat + v2.toNat + v1.toNat + v0.toNat) % 256 := by
  obtain ⟨cc, hbytes, hcc⟩ := requestPayload_bytes 0x80 (q ++ [v3, v2, v1, v0])
  have hpay : encode { defaultParams with ciPrefix := q } (.writeCleaningInterval (v3 ++ v2 ++ v1 ++ v0)) =
      requestPayload 0x80 (q ++ [v3, v2, v1, v0]) := by
    rw [← be32Enc_be32Dec]
    rfl
  refine ⟨cc, by rw [hpay, hbytes]; simp, ?_⟩
  simp only [byteSum_append, byteSum_cons, byteSum_nil, List.length_append, List.length_cons, List.length_nil] at hcc
  rw [hcc, show (0x80 : Byte).toNat = 0x80 from rfl]
  omega

/-- Settles O5: the constant payloads by evaluation, the cleaning-interval rows from the general request. -/
theorem requestPayloadsByteByByte : Obligations.RequestPayloadsByteByByte := by
  unfold Obligations.RequestPayloadsByteByByte
  refine ⟨by decide, by decide, by decide, by decide, by decide, by decide, by decide, by decide, by decide,
    fun v3 v2 v1 v0 => ?_, fun q _ => encode_readCleaningInterval_bytes q,
    fun q v3 v2 v1 v0 _ => encode_writeCleaningInterval_bytes q v3 v2 v1 v0⟩
  obtain ⟨cc, hbytes, hcc⟩ := encode_writeCleaningInterval_bytes [] v3 v2 v1 v0
  exact ⟨cc, hbytes, hcc⟩

end Sys2Proof.Machine

namespace Sys2Proof.Machine

/-! ## The response phases on a response row -/

/-- The meaning of a response row is the response phases of the running operation on its payload. -/
theorem exec_response_running {i : Instr} {s : State} {o : Op} (hi : i.isRequest = false) (ho : s.op = some o) :
    exec i s = respond o (encode s.params i) s := by
  rw [exec_response hi]
  simp only [receive, ho]

theorem respond_check {s : State} (o : Op) (bs : Bytes) (hp : s.phase = .check) : respond o bs s = checkStep bs s := by
  simp only [respond, hp]

theorem respond_validate {s : State} (o : Op) (bs : Bytes) (hp : s.phase = .validate) :
    respond o bs s = validateStep bs s := by
  simp only [respond, hp]

theorem respond_extract {s : State} (o : Op) (bs : Bytes) (hp : s.phase = .extract) :
    respond o bs s = extractStep o bs s := by
  simp only [respond, hp]

/-- `P_CHECK` on a payload that holds a byte, its decision as arithmetic (R139). -/
theorem checkStep_eq {bs : Bytes} (h : bs ≠ []) (s : State) :
    checkStep bs s = .next (
      if byteSum bs % 256 = 255 then { s with acc := sum8 bs.dropLast, phase := .validate }
      else State.raise { s with acc := sum8 bs.dropLast } .checksumFailed) := by
  simp only [checkStep, if_neg h, checksumMatches_iff h]
  split <;> rfl

/-- The payload of a response row is never empty. -/
theorem encode_response_ne_nil {i : Instr} (hi : i.isRequest = false) (p : Params) : encode p i ≠ [] := by
  obtain ⟨a, data, cc, hfields⟩ := Instr.exists_hasFields hi
  rw [hfields.payload]
  nofun

/-- Settles O38: a response row's payload has a last byte to compare. -/
theorem responseRowsAreChecked : Obligations.ResponseRowsAreChecked := by
  unfold Obligations.ResponseRowsAreChecked
  intro i s o hi hp ho
  refine ⟨sum8 (encode s.params i).dropLast, ?_⟩
  rw [exec_response_running hi ho, respond_check o _ hp, checkStep_eq (encode_response_ne_nil hi _)]

/-- Of the validator's checks, a response row can fail only the one of its command code (R150). -/
theorem validateKind_responsePayload (issued a c cc : Byte) {d : Bytes} (h : d.length ≤ 255) :
    validateKind issued (responsePayload a c d cc) = if c = issued then none else some .invalidResponse := by
  have hcmd : rspCommand (responsePayload a c d cc) = some c := rfl
  have hstate : rspState (responsePayload a c d cc) = some Config.stateOk := rfl
  have hlen : (rspLength (responsePayload a c d cc)).map BitVec.toNat = some d.length :=
    congrArg some (toNat_ofNat_length h)
  simp [validateKind, hcmd, hstate, hlen, Config.minRsp]

/-- Settles O39: the check of the command code alone decides. -/
theorem responseRowsAreValidated : Obligations.ResponseRowsAreValidated := by
  unfold Obligations.ResponseRowsAreValidated
  intro i s o c hi hwf hp ho hc
  obtain ⟨a, data, cc, hfields⟩ := Instr.exists_hasFields hi
  rw [exec_response_running hi ho, respond_validate o _ hp, hfields.payload, validateStep, hc]
  simp only [validateKind_responsePayload c a _ cc (hfields.fits hwf)]
  by_cases hcode : codeOf s.params i.opOf = c <;> simp [hcode]

/-! ## `P_EXTRACT` on the operation's own response row -/

/-- In `P_EXTRACT` a response row's meaning is `Extract_OP` on its payload. -/
theorem exec_extract {i : Instr} {s : State} {o : Op} (hi : i.isRequest = false) (hp : s.phase = .extract)
    (ho : s.op = some o) : exec i s = extractStep o (encode s.params i) s := by
  rw [exec_response_running hi ho, respond_extract o _ hp]

/-- The data of a response payload are where `RXP[4..]` is read (R83). -/
theorem rspData_responsePayload (a c cc : Byte) (d : Bytes) : rspData (responsePayload a c d cc) d.length = some d := by
  rw [rspData_eq (responsePayload_length a c d cc)]
  exact congrArg some List.take_left

/-- Ten values are a full measurement (R183). -/
theorem extractMeasurement_row (a c cc : Byte) {values : List Word} (s : State) (h : values.length = 10) :
    extractMeasurement (responsePayload a c (values.flatMap be32Enc) cc) s =
      .next { s.finish with f := some values } := by
  have hlen := length_flatMap_be32Enc_of_ten h
  have hdata := rspData_responsePayload a c cc (values.flatMap be32Enc)
  rw [hlen] at hdata
  rw [extractMeasurement, if_pos (by rw [responsePayload_length, hlen]; rfl), hdata]
  simp only [f32Groups_flatMap]

/-- Four data bytes are the interval (R184). -/
theorem extractInterval_row (a c cc : Byte) (v : Word) (s : State) :
    extractInterval (responsePayload a c (be32Enc v) cc) s = .next { s.finish with ci := some v } := by
  have hlen : rspLength (responsePayload a c (be32Enc v) cc) = some 4 := rfl
  have hdata : rspData (responsePayload a c (be32Enc v) cc) 4 =
      some [v.extractLsb' 24 8, v.extractLsb' 16 8, v.extractLsb' 8 8, v.extractLsb' 0 8] :=
    rspData_responsePayload a c cc (be32Enc v)
  rw [extractInterval, hlen]
  simp only [hdata, be32Dec_be32Enc, ne_eq, not_true_eq_false, if_false]

/-- At most 32 data bytes are the device information, filled with zeros (R187). -/
theorem extractInfo_row (a c cc : Byte) {d : Bytes} (s : State) (h : d.length ≤ 32) :
    extractInfo (responsePayload a c d cc) s = .next { s.finish with
      info := some (d ++ List.replicate (32 - d.length) 0), infoLen := some d.length } := by
  have hlen : rspLength (responsePayload a c d cc) = some (BitVec.ofNat 8 d.length) := rfl
  rw [extractInfo, hlen]
  simp only [toNat_ofNat_length (show d.length ≤ 255 by omega), Config.infoCap, if_neg (Nat.not_lt.2 h),
    rspData_responsePayload]

/-- More than 32 data bytes do not fit `INFO` (R187). -/
theorem extractInfo_overlong (a c cc : Byte) {d : Bytes} (s : State) (h : 32 < d.length) (h' : d.length ≤ 255) :
    extractInfo (responsePayload a c d cc) s = .next (s.raise .emptyResult) := by
  have hlen : rspLength (responsePayload a c d cc) = some (BitVec.ofNat 8 d.length) := rfl
  rw [extractInfo, hlen]
  simp only [toNat_ofNat_length h', Config.infoCap, if_pos h]

/-- Settles O40, row by row: `Extract_OP` on that row's payload. -/
theorem responseRowsDeliverTheirResult : Obligations.ResponseRowsDeliverTheirResult := by
  unfold Obligations.ResponseRowsDeliverTheirResult
  intro s a cc data hp
  exact ⟨exec_extract rfl hp, exec_extract rfl hp, exec_extract rfl hp, exec_extract rfl hp,
    fun values ho hlen => (exec_extract rfl hp ho).trans (extractMeasurement_row a _ cc s hlen),
    fun value ho => (exec_extract rfl hp ho).trans (extractInterval_row a s.params.codeCi cc value s),
    exec_extract rfl hp,
    fun ho hlen => (exec_extract rfl hp ho).trans (extractInfo_row a _ cc s hlen),
    fun ho hlen hfits => (exec_extract rfl hp ho).trans (extractInfo_overlong a _ cc s hlen hfits)⟩

/-! ## The engine runs the response row it holds -/

/-- In a response phase, the meaning of an operation on the payload held. -/
theorem operate_held {k : Instr} {s : State} {bs : Bytes}
    (hp : s.phase = .check ∨ s.phase = .validate ∨ s.phase = .extract) (hbs : s.payload = some bs) :
    operate k s = respond k.opOf bs s := by
  obtain hp | hp | hp := hp <;> simp only [operate, respondHeld, hp, hbs]

/-- A device-information row is at most 37 bytes long (R94). -/
theorem deviceInfo_payload_length_le {p : Params} {bs : Bytes} {i : Instr}
    (h : decodeResponseFor p .deviceInfo bs = .ok i) : bs.length ≤ 37 := by
  obtain ⟨hi, ho, hwf, rfl⟩ := decodeResponseFor_spec h
  cases i <;> cases hi <;> cases ho
  have hlen : List.length _ ≤ 32 := of_decide_eq_true hwf
  rw [encode, responsePayload_length]
  omega

/-- Settles O22: the row's payload is the one held, so both meanings are the response phases on it. -/
theorem stepRunsTheDecodedResponse : Obligations.StepRunsTheDecodedResponse := by
  unfold Obligations.StepRunsTheDecodedResponse
  refine ⟨fun s k bs hh hp hk hbs => ?_, fun p bs hlen => ?_⟩
  · obtain ⟨hreq, hop⟩ := State.presented_spec hk
    have hrun : s.phase ≠ .idle := by
      intro h
      simp [h] at hp
    have hstep : step s = exec k s := by rw [step_operate hh hk hrun, exec_request hreq]
    refine ⟨fun i hi => ?_, fun _ _ => hstep⟩
    obtain ⟨hrsp, -, -, hpay⟩ := decodeResponseFor_spec hi
    have hsame : exec i s = exec k s := by
      rw [exec_response_running hrsp hop, hpay, exec_request hreq, operate_held hp hbs]
    exact ⟨hstep.trans hsame.symm, hsame⟩
  · cases h : decodeResponseFor p .deviceInfo bs with
    | error e => exact ⟨e, rfl⟩
    | ok i =>
      have := deviceInfo_payload_length_le h
      omega

/-! ## A table word placed is what runs (log entry 9) -/

/-- A request row placed runs by the host's *start*. -/
theorem step_placeRequest {i : Instr} (hi : i.isRequest = true) (s : State) :
    step (placeRequest i s) = exec i { placeRequest i s with host := s.host } := by
  refine step_start_presented rfl ?_ (State.presented_present s hi)
  simp only [placeRequest]
  split
  · nofun
  · assumption

/-- In `P_CHECK` the engine fetches the row of the running operation that the payload held is (log entry 11). -/
theorem fetch_check {s : State} {o : Op} {bs : Bytes} {i : Instr} (hp : s.phase = .check) (ho : s.op = some o)
    (hbs : s.payload = some bs) (hi : decodeResponseFor s.params o bs = .ok i) : fetch s = some i := by
  simp only [fetch, fetch.fetchResponse, hp, ho, hbs, hi]

/-- Outside `P_IDLE` the engine runs what it fetches. -/
theorem engineStep_of_fetch {s : State} {i : Instr} (hp : s.phase ≠ .idle) (hi : fetch s = some i) :
    engineStep s = exec i s := by
  unfold engineStep
  split
  · exact absurd ‹_› hp
  · rw [hi]

/-- A well-formed response row placed is the one the engine fetches. -/
theorem step_placeResponse {i : Instr} (hi : i.isRequest = false) (hwf : i.wf = true) (s : State) :
    step (placeResponse i s) = exec i { placeResponse i s with host := s.host } := by
  have hpay : { placeResponse i s with host := s.host }.payload = some (encode s.params i) :=
    payload_of_writeBytes (m := []) rfl rfl
  rw [step_of_host (m := .quiet) (rest := s.host) rfl]
  exact engineStep_of_fetch (show Phase.check ≠ .idle by decide)
    (fetch_check rfl rfl hpay (decodeResponseFor_encode s.params hi hwf))

/-- What a table word decodes to is a well-formed row. -/
theorem decodeTableWord_wf {nbits w : Nat} {i : Instr} (h : decodeTableWord nbits w = some i) : i.wf = true := by
  unfold decodeTableWord at h
  cases hd : decode defaultParams (tablePayload nbits w) with
  | error e =>
    rw [hd] at h
    cases h
  | ok j =>
    rw [hd] at h
    cases h
    exact (decode_spec hd).1

/-- Settles O23: a word that decodes is a well-formed row, and is placed by its kind. -/
theorem tableWordRunsNext : Obligations.TableWordRunsNext := by
  unfold Obligations.TableWordRunsNext
  intro s nbits w i h
  rw [State.withFetchWord, placeWord, h]
  cases hi : i.isRequest with
  | true => simpa [hi] using step_placeRequest hi s
  | false => simpa [hi] using step_placeResponse hi (decodeTableWord_wf h) s

end Sys2Proof.Machine

namespace Sys2Proof.Machine

/-! ## The checksum laws (R110 to R112) -/

/-- Settles O7: it is the checksum's value as arithmetic. -/
theorem checksumIsComplementOfByteSum : Obligations.ChecksumIsComplementOfByteSum := by
  unfold Obligations.ChecksumIsComplementOfByteSum
  exact checksum_toNat

/-- Two sequences have the same checksum exactly when their byte sums agree modulo 256. -/
theorem checksum_eq_iff (s t : Bytes) : checksum s = checksum t ↔ byteSum s % 256 = byteSum t % 256 := by
  rw [← BitVec.toNat_inj, checksum_toNat, checksum_toNat]
  omega

/-- A `0x00` inserted anywhere leaves the checksum as it is (R112, laws 3 and 6). -/
theorem checksum_insert_zero (s t : Bytes) : checksum (s ++ 0x00 :: t) = checksum (s ++ t) := by
  rw [checksum_eq_iff]
  simp

/-- R112, law 1: no borrow leaves `255 - a`, so it flips every bit. -/
theorem checksum_eq_not_sum8 (s : Bytes) : checksum s = ~~~ sum8 s :=
  BitVec.allOnes_sub_eq_not (sum8 s)

theorem byteSum_append_checksum (s : Bytes) : byteSum (s ++ [checksum s]) % 256 = 255 :=
  (eq_checksum_iff s _).mp rfl

/-- R112, law 5: with its checksum appended a sequence sums to 255, the complement of 0. -/
theorem checksum_append_checksum (s : Bytes) : checksum (s ++ [checksum s]) = 0x00 := by
  apply BitVec.eq_of_toNat_eq
  rw [checksum_toNat, byteSum_append_checksum]
  rfl

/-- Settles O8, law by law. -/
theorem checksumLaws : Obligations.ChecksumLaws := by
  unfold Obligations.ChecksumLaws
  refine ⟨fun s => ⟨checksum_eq_not_sum8 s, sum8_toNat s⟩, rfl, fun s t => ?concat, fun s => ?appendZero,
    fun s => ?sumWithChecksum, fun s => checksumMatches_iff, checksum_append_checksum⟩
  case concat => rw [checksum_toNat, byteSum_append]
  case appendZero => simpa using checksum_insert_zero s []
  case sumWithChecksum => simpa using byteSum_append_checksum s

/-- The sum of the other bytes cancels, and two bytes that agree modulo 256 are one byte. -/
theorem checksum_ne_of_one_byte_changed (s t : Bytes) {b b' : Byte} (h : b ≠ b') :
    checksum (s ++ b :: t) ≠ checksum (s ++ b' :: t) := by
  have hb := b.isLt
  have hb' := b'.isLt
  rw [ne_eq, ← BitVec.toNat_inj] at h
  rw [ne_eq, checksum_eq_iff]
  simp only [byteSum_append, byteSum_cons]
  omega

theorem byteSum_perm {s t : Bytes} (h : s.Perm t) : byteSum s = byteSum t :=
  (h.map BitVec.toNat).sum_eq

/-- Adding `d` to one byte and taking it from another keeps the byte sum modulo 256 (R112, law 6). -/
theorem checksum_cancelling_changes (s t u : Bytes) (b c d : Byte) :
    checksum (s ++ (b + d) :: (t ++ (c - d) :: u)) = checksum (s ++ b :: (t ++ c :: u)) := by
  have hd := d.isLt
  have hpair : ((b + d).toNat + (c - d).toNat) % 256 = (b.toNat + c.toNat) % 256 := by
    rw [BitVec.toNat_add, BitVec.toNat_sub]
    omega
  rw [checksum_eq_iff]
  simp only [byteSum_append, byteSum_cons]
  omega

/-- Settles O9: what is detected, then the three kinds of miss. -/
theorem checksumDetectsOneChangedByte : Obligations.ChecksumDetectsOneChangedByte := by
  unfold Obligations.ChecksumDetectsOneChangedByte
  exact ⟨fun s t _ _ => checksum_ne_of_one_byte_changed s t,
    fun s t h => (checksum_eq_iff s t).mpr (by rw [byteSum_perm h]),
    checksum_cancelling_changes, checksum_insert_zero⟩

end Sys2Proof.Machine

namespace Sys2Proof.Machine

/-! ## The request path (R120 to R123) -/

/-- The accumulator after `P_BUILD`, as arithmetic (R110, R120). -/
theorem sum8_requestHead_toNat (c : Byte) (d : Bytes) :
    (sum8 (requestHead c d)).toNat = (c.toNat + d.length + byteSum d) % 256 := by
  have haddr : Config.addr.toNat = 0 := rfl
  rw [sum8_toNat]
  simp only [requestHead, haddr, byteSum_append, byteSum_cons, byteSum_nil, BitVec.toNat_ofNat]
  omega

/-- The checksum byte of a request is 255 less the accumulator (R110). -/
theorem checksum_toNat_eq_sub_sum8 (bs : Bytes) : (checksum bs).toNat = 255 - (sum8 bs).toNat := by
  rw [checksum_toNat, sum8_toNat]

/-- The phase action of `P_ENCODE` of every operation (R122). -/
theorem exec_encode {i : Instr} {s : State} (hi : i.isRequest = true) (hp : s.phase = .encode) :
    exec i s = encodeStep s := by
  rw [exec_request hi]
  simp only [operate, hp]

/-- The phase action of `P_SEND` of every operation (R123). -/
theorem exec_send {i : Instr} {s : State} (hi : i.isRequest = true) (hp : s.phase = .send) :
    exec i s = sendStep s := by
  rw [exec_request hi]
  simp only [operate, hp]

/-- Settles O24: a legal request fits `TXP`, and what is stored there is its payload. -/
theorem buildWritesTheRequest : Obligations.BuildWritesTheRequest := by
  unfold Obligations.BuildWritesTheRequest
  intro i s hi hp hwf
  have hlen := requestPayload_length (codeOf s.params i.opOf) (requestData s.params i)
  rw [exec_build hi hp, buildStep_eq (requestData_fits hwf i)]
  refine ⟨_, _, checksum (requestHead (codeOf s.params i.opOf) (requestData s.params i)), rfl,
    ?bytes, sum8_requestHead_toNat _ _, checksum_toNat_eq_sub_sum8 _, fun k hk => ?beyond⟩
  case bytes =>
    rw [← hlen]
    exact Memory.readBytes_writeBytes _ _ _
  case beyond => exact Memory.read_writeBytes_after _ _ _ _ (by omega)

/-- Settles O26: the codec's answer decides between the error and `P_SEND`. -/
theorem encodeStepHandsOverTheRequest : Obligations.EncodeStepHandsOverTheRequest := by
  unfold Obligations.EncodeStepHandsOverTheRequest
  intro i s bs hi hp hbs
  rw [exec_encode hi hp]
  exact ⟨fun hfail => by simp only [encodeStep, hbs, hfail],
    fun stream hok => by simp only [encodeStep, hbs, hok]⟩

/-- Settles O27: the transport's answer decides how much is accepted and what comes next. -/
theorem sendWritesTheStreamOnce : Obligations.SendWritesTheStreamOnce := by
  unfold Obligations.SendWritesTheStreamOnce
  intro i s hi hp
  rw [exec_send hi hp]
  exact ⟨fun hok => by simp only [sendStep, State.afterWrite, accepted, hok],
    fun n hfail => by simp only [sendStep, State.afterWrite, accepted, hfail]⟩

end Sys2Proof.Machine

namespace Sys2Proof.Machine

/-! ## One step of the response path (R130 to R140) -/

/-- The phase action of `P_RECV` of every operation (R131). -/
theorem exec_recv {i : Instr} {s : State} (hi : i.isRequest = true) (hp : s.phase = .recv) :
    exec i s = recvStep s := by
  rw [exec_request hi]
  simp only [operate, hp]

/-- The phase action of `P_DECODE` of every operation (R137). -/
theorem exec_decode {i : Instr} {s : State} (hi : i.isRequest = true) (hp : s.phase = .decode) :
    exec i s = decodeStep s := by
  rw [exec_request hi]
  simp only [operate, hp]

/-- The phase action of `P_CHECK` of every operation, on the payload held (R139). -/
theorem exec_check {i : Instr} {s : State} {bs : Bytes} (hi : i.isRequest = true) (hp : s.phase = .check)
    (hbs : s.payload = some bs) : exec i s = checkStep bs s := by
  rw [exec_request hi]
  simp only [operate, respondHeld, hp, hbs, respond_check]

/-- Would-block changes nothing but the count of polls (R134). -/
theorem recvStep_wouldBlock {s : State} (h : s.rxNext = .wouldBlock) :
    recvStep s = .next { s with rxIn := s.rxIn.tail, polls := s.polls + 1 } := by
  simp only [recvStep, State.afterPoll, h]

/-- A failed poll ends the operation (R135). -/
theorem recvStep_fail {s : State} (h : s.rxNext = .fail) :
    recvStep s = .next (State.raise { s with rxIn := s.rxIn.tail, polls := s.polls + 1 } .readError) := by
  simp only [recvStep, State.afterPoll, h]

/-- What follows once a byte has been kept and counted: the second delimiter ends the receive, else the 600th byte
ends the operation, else the receive goes on (R131, R133, R136). -/
def byteCounted (u : State) : State :=
  if u.delims = 2 then { u with phase := .decode }
  else if u.rxCnt = Config.rxCap then u.raise .invalidFrame
  else u

theorem byteCounted_second {u : State} (h : u.delims = 2) : byteCounted u = { u with phase := .decode } := if_pos h

theorem byteCounted_full {u : State} (h : u.delims ≠ 2) (hfull : u.rxCnt = Config.rxCap) :
    byteCounted u = u.raise .invalidFrame := (if_neg h).trans (if_pos hfull)

theorem byteCounted_open {u : State} (h : u.delims ≠ 2) (hroom : u.rxCnt ≠ Config.rxCap) : byteCounted u = u :=
  (if_neg h).trans (if_neg hroom)

/-- A byte polled while `RXS` has room is kept and counted (R131). -/
theorem recvStep_byte {s : State} {b : Byte} (h : s.rxNext = .byte b) (hroom : s.rxCnt < Config.rxCap) :
    recvStep s = .next (byteCounted (kept b s.afterPoll)) := by
  have hfits : s.afterPoll.rxCnt + 1 ≤ Config.rxBuf := Nat.le_trans hroom (by decide)
  simp only [recvStep, h]
  exact recvByte_eq hfits

/-- Settles O28, answer by answer. -/
theorem receiveStepMakesOnePoll : Obligations.ReceiveStepMakesOnePoll := by
  unfold Obligations.ReceiveStepMakesOnePoll
  intro i s hi hp hroom
  rw [exec_recv hi hp]
  refine ⟨recvStep_wouldBlock, recvStep_fail, fun b hb => ⟨s.rxs.write s.rxCnt b, kept b s.afterPoll,
    Memory.read_write_same _ _ _, fun k hk => Memory.read_write_other _ _ _ _ hk, ?_, recvStep_byte hb hroom⟩⟩
  simp only [kept, State.afterPoll, hb]
  rfl

/-- Settles O29: the codec's answer decides between the error and `P_CHECK`, and is stored from index 0 of an empty
`RXP`. -/
theorem decodeStepTakesTheCapturedStream : Obligations.DecodeStepTakesTheCapturedStream := by
  unfold Obligations.DecodeStepTakesTheCapturedStream
  intro i s bs hi hp hbs
  rw [exec_decode hi hp]
  refine ⟨fun hfail => by simp only [decodeStep, hbs, hfail],
    fun r hok => ⟨Memory.writeBytes [] 0 r, _, rfl, by simp only [decodeStep, hbs, hok],
      payload_of_writeBytes rfl rfl, fun k hk => ?_⟩⟩
  rw [Memory.read_writeBytes_after _ _ _ _ (by omega), Memory.read_nil]

/-- The comparison of `P_CHECK`, the empty payload included: it has no last byte (R139, R140). -/
theorem checksumMatches_iff_getLast? (bs : Bytes) :
    checksumMatches bs = true ↔ ∃ cc, bs.getLast? = some cc ∧ cc.toNat = 255 - byteSum bs.dropLast % 256 := by
  unfold checksumMatches
  cases bs.getLast? with
  | none => simp
  | some cc =>
    rw [decide_eq_true_iff, ← BitVec.toNat_inj, checksum_toNat]
    exact ⟨fun h => ⟨cc, rfl, h⟩, fun ⟨_, rfl, h⟩ => h⟩

/-- `P_CHECK` on any payload: the accumulator, then the comparison's verdict. -/
theorem checkStep_summed (bs : Bytes) (s : State) :
    checkStep bs s = .next (
      if checksumMatches bs then { summed bs s with phase := .validate }
      else (summed bs s).raise .checksumFailed) := by
  simp only [checkStep, summed]
  split <;> rfl

/-- Settles O30: the comparison decides, and all that is accumulated is in `ACC`. -/
theorem checkComparesTheLastByte : Obligations.CheckComparesTheLastByte := by
  unfold Obligations.CheckComparesTheLastByte
  intro i s bs hi hp hbs
  obtain ⟨acc, hacc⟩ := summed_eq bs s
  refine ⟨acc, ?_⟩
  rw [exec_check hi hp hbs, checkStep_summed, hacc]
  constructor
  · intro hpass
    rw [if_pos ((checksumMatches_iff_getLast? bs).2 hpass)]
  · intro hne
    rw [if_neg]
    intro hmatch
    obtain ⟨cc, hlast, hcc⟩ := (checksumMatches_iff_getLast? bs).1 hmatch
    exact hne cc hlast hcc

/-- Settles O49: with the host making no move the step is the engine's, which always answers. -/
theorem runningEngineAlwaysSteps : Obligations.RunningEngineAlwaysSteps := by
  unfold Obligations.RunningEngineAlwaysSteps
  intro s h ⟨_, hquiet⟩
  rw [step_of_quiet hquiet]
  exact h.engineStep_total

end Sys2Proof.Machine

namespace Sys2Proof.Machine

/-! ## Receives of several polls (R133, R134, R136) -/

/-- An operation is receiving and the host makes no move. -/
structure Receiving (s : State) : Prop where
  busy : s.status = .busy
  quiet : s.host = []
  presents : s.presented.isSome
  phase : s.phase = .recv

/-- The state after a receive has polled `answers`, each byte kept and counted and no byte having ended it. -/
def received (answers : List RxAnswer) (s : State) : State :=
  { s with
    rxIn := s.rxIn.drop answers.length
    polls := s.polls + answers.length
    taken := s.taken + (rxBytes answers).length
    rxs := s.rxs.writeBytes s.rxCnt (rxBytes answers)
    rxCnt := s.rxCnt + (rxBytes answers).length
    delims := s.delims + (rxBytes answers).count Config.delim }

/-- A receive that has not ended goes on. -/
theorem Receiving.stays {s : State} (h : Receiving s) (answers : List RxAnswer) :
    Receiving (received answers s) := ⟨h.busy, h.quiet, h.presents, h.phase⟩

/-- A receiving engine's step is one poll. -/
theorem Receiving.step_eq {s : State} (h : Receiving s) : step s = recvStep s := by
  obtain ⟨i, hi⟩ := Option.isSome_iff_exists.1 h.presents
  rw [step_operate h.quiet hi (by simp [h.phase])]
  simp only [operate, h.phase]

/-- The poll takes its answer off the script. -/
theorem rxNext_of_rxIn {s : State} {a : RxAnswer} {rest : List RxAnswer} (h : s.rxIn = a :: rest) : s.rxNext = a := by
  rw [State.rxNext, h]

/-- The delimiter count, one byte more, as a count (R131, R132). -/
theorem countDelim_eq (b : Byte) (n : Nat) : countDelim b n = n + [b].count Config.delim := by
  by_cases hb : b = Config.delim <;> simp [countDelim, hb]

theorem kept_afterPoll {s : State} {b : Byte} (h : s.rxNext = .byte b) :
    kept b s.afterPoll = received [.byte b] s := by
  simp only [kept, State.afterPoll, received, h, countDelim_eq, List.drop_one, List.length_singleton, rxBytes]

theorem rxBytes_append (as bs : List RxAnswer) : rxBytes (as ++ bs) = rxBytes as ++ rxBytes bs := by
  induction as with
  | nil => rfl
  | cons a as ih => cases a <;> simp [rxBytes, ih]

theorem rxBytes_replicate_wouldBlock (n : Nat) : rxBytes (List.replicate n .wouldBlock) = [] := by
  induction n with
  | zero => rfl
  | succ n ih => exact ih

/-- A receive in two parts. -/
theorem received_append (as bs : List RxAnswer) (s : State) :
    received bs (received as s) = received (as ++ bs) s := by
  simp only [received, rxBytes_append, Memory.writeBytes_append, List.length_append, List.count_append,
    List.drop_drop, Nat.add_assoc]

theorem received_cons (a : RxAnswer) (answers : List RxAnswer) (s : State) :
    received (a :: answers) s = received answers (received [a] s) := (received_append [a] answers s).symm

/-- A receive of no bytes changes nothing but the script and the count of polls (R134). -/
theorem received_no_bytes {answers : List RxAnswer} (h : rxBytes answers = []) (s : State) :
    received answers s = { s with rxIn := s.rxIn.drop answers.length, polls := s.polls + answers.length } := by
  simp only [received, h]
  rfl

/-- What a receive leaves of the script. -/
theorem received_rxIn {s : State} {answers rest : List RxAnswer} (h : s.rxIn = answers ++ rest) :
    (received answers s).rxIn = rest := by
  rw [received, h, List.drop_left]

/-- The bytes a receive from an empty `RXS` has captured. -/
theorem received_captured (answers : List RxAnswer) {s : State} (h : s.rxCnt = 0) :
    (received answers s).captured = some (rxBytes answers) := by
  simp only [State.captured, received, h, Nat.zero_add]
  exact Memory.readBytes_writeBytes _ _ _

/-- One poll that does not end the receive. -/
theorem Receiving.step_received {s : State} {a : RxAnswer} {rest : List RxAnswer} (h : Receiving s)
    (hrx : s.rxIn = a :: rest) (ha : a ≠ .fail)
    (hopen : rxBytes [a] ≠ [] →
      s.delims + (rxBytes [a]).count Config.delim < 2 ∧ s.rxCnt + (rxBytes [a]).length < Config.rxCap) :
    step s = .next (received [a] s) := by
  have hnext := rxNext_of_rxIn hrx
  rw [h.step_eq]
  cases a with
  | fail => exact absurd rfl ha
  | wouldBlock => rw [recvStep_wouldBlock hnext, received_no_bytes rfl, List.length_singleton, List.drop_one]
  | byte b =>
    obtain ⟨hdelims, hcnt⟩ := hopen nofun
    have hnotSecond : (received [.byte b] s).delims ≠ 2 := Nat.ne_of_lt hdelims
    have hnotFull : (received [.byte b] s).rxCnt ≠ Config.rxCap := Nat.ne_of_lt hcnt
    rw [recvStep_byte hnext (by omega), kept_afterPoll hnext, byteCounted_open hnotSecond hnotFull]

/-- A receive goes on through any answers that hold fewer than two delimiters and fewer than 600 bytes, would-block
answers being free. -/
theorem Receiving.run_received {answers rest : List RxAnswer} {s : State} (h : Receiving s)
    (hrx : s.rxIn = answers ++ rest) (hfail : .fail ∉ answers)
    (hopen : rxBytes answers ≠ [] →
      s.delims + (rxBytes answers).count Config.delim < 2 ∧ s.rxCnt + (rxBytes answers).length < Config.rxCap) :
    run answers.length s = .next (received answers s) := by
  induction answers generalizing s with
  | nil => rfl
  | cons a answers ih =>
    obtain ⟨ha, hfail⟩ := not_or.1 (List.mem_cons.not.1 hfail)
    have hbytes : rxBytes (a :: answers) = rxBytes [a] ++ rxBytes answers := rxBytes_append [a] answers
    simp only [hbytes, List.count_append, List.length_append] at hopen
    have hstep : step s = .next (received [a] s) :=
      h.step_received hrx (Ne.symm ha) fun hne => by have := hopen (by simp [hne]); omega
    rw [List.length_cons, run_next _ hstep, received_cons a answers]
    refine ih (h.stays [a]) (received_rxIn (answers := [a]) hrx) hfail fun hne => ?_
    have := hopen (by simp [hne])
    simp only [received]
    omega

/-- A receive up to a byte that may end it, after answers that left it open. -/
theorem Receiving.run_last {answers rest : List RxAnswer} {s : State} {b : Byte} (h : Receiving s)
    (hrx : s.rxIn = answers ++ [RxAnswer.byte b] ++ rest) (hfail : .fail ∉ answers)
    (hdelims : s.delims + (rxBytes answers).count Config.delim < 2)
    (hcnt : s.rxCnt + (rxBytes answers).length < Config.rxCap) :
    run (answers ++ [RxAnswer.byte b]).length s =
      .next (byteCounted (received (answers ++ [RxAnswer.byte b]) s)) := by
  rw [List.append_assoc] at hrx
  have hnext : (received answers s).rxNext = .byte b := rxNext_of_rxIn (received_rxIn hrx)
  have hstep := (h.stays answers).step_eq.trans (recvStep_byte hnext hcnt)
  rw [kept_afterPoll hnext, received_append] at hstep
  rw [List.length_append, run_add (h.run_received hrx hfail fun _ => ⟨hdelims, hcnt⟩)]
  exact run_next 0 hstep

/-- Settles O55: the answers before the last byte leave the receive open, and the last byte is the second
delimiter. -/
theorem receiveCapturesUpToTheSecondDelimiter : Obligations.ReceiveCapturesUpToTheSecondDelimiter := by
  unfold Obligations.ReceiveCapturesUpToTheSecondDelimiter
  intro s answers rest ⟨hbusy, hquiet⟩ hpr hp hcnt0 hdelims0 hrx hfail hlast hcount hlen
  have hrecv : Receiving s := ⟨hbusy, hquiet, hpr, hp⟩
  have hdelims : (received answers s).delims = 2 := by rw [received, hdelims0, hcount]
  have hcap := received_captured answers hcnt0
  have hrest := received_rxIn hrx
  obtain ⟨before, rfl⟩ := List.getLast?_eq_some_iff.1 hlast
  have hcount1 : (rxBytes before).count Config.delim = 1 := by
    rw [rxBytes_append, List.count_append] at hcount
    exact Nat.succ.inj hcount
  have hlen1 : (rxBytes before).length < Config.rxCap := by
    rw [rxBytes_append, List.length_append] at hlen
    exact hlen
  have hrun := hrecv.run_last hrx (fun hm => hfail (List.mem_append_left _ hm)) (by omega) (by omega)
  rw [byteCounted_second hdelims] at hrun
  exact ⟨_, hrun, rfl, hbusy, hcap, by simp only [received, hcnt0, Nat.zero_add], hdelims, hrest, rfl, rfl⟩

/-- A script whose last answer is a byte. -/
theorem exists_last_byte {answers : List RxAnswer} (hne : answers ≠ []) (hfail : .fail ∉ answers)
    (hlast : answers.getLast? ≠ some .wouldBlock) : ∃ before b, answers = before ++ [.byte b] := by
  obtain ⟨before, a, rfl⟩ := (List.eq_nil_or_concat' answers).resolve_left hne
  cases a with
  | byte b => exact ⟨before, b, rfl⟩
  | wouldBlock => simp at hlast
  | fail => simp at hfail

/-- Settles O56: the answers before the last byte leave the receive open, and the last byte is the 600th and not the
second delimiter. -/
theorem receiveFailsAtTheCap : Obligations.ReceiveFailsAtTheCap := by
  unfold Obligations.ReceiveFailsAtTheCap
  intro s answers rest ⟨hbusy, hquiet⟩ hpr hp hcnt0 hdelims0 hrx hfail hlast hcount hlen
  have hrecv : Receiving s := ⟨hbusy, hquiet, hpr, hp⟩
  have hdelims : (received answers s).delims ≠ 2 := by simp only [received, hdelims0]; omega
  have hfull : (received answers s).rxCnt = Config.rxCap := by rw [received, hcnt0, hlen]; rfl
  have hrest := received_rxIn hrx
  have hne : answers ≠ [] := by rintro rfl; cases hlen
  obtain ⟨before, b, rfl⟩ := exists_last_byte hne hfail hlast
  have hcount1 : (rxBytes before).count Config.delim < 2 := by
    rw [rxBytes_append, List.count_append] at hcount
    omega
  have hlen1 : (rxBytes before).length < Config.rxCap := by
    rw [rxBytes_append, List.length_append] at hlen
    exact Nat.le_of_eq hlen
  have hrun := hrecv.run_last hrx (fun hm => hfail (List.mem_append_left _ hm)) (by omega) (by omega)
  rw [byteCounted_full hdelims hfull] at hrun
  refine ⟨_, hrun, rfl, rfl, rfl, hrest, rfl, ?_⟩
  simp only [State.raise_taken, received, hlen]

/-- Settles O57: a receive that polls no byte stays open. -/
theorem wouldBlockHangsTheOperation : Obligations.WouldBlockHangsTheOperation := by
  unfold Obligations.WouldBlockHangsTheOperation
  intro s n rest ⟨hbusy, hquiet⟩ hpr hp hrx
  have hrecv : Receiving s := ⟨hbusy, hquiet, hpr, hp⟩
  have hnone := rxBytes_replicate_wouldBlock n
  have hrun := hrecv.run_received hrx (by simp) (fun hne => absurd hnone hne)
  rw [received_no_bytes hnone, hrx, List.drop_left, List.length_replicate] at hrun
  exact hrun

end Sys2Proof.Machine

namespace Sys2Proof.Machine

/-! ## The response validator (R150 to R154) -/

/-- The phase action of `P_VALIDATE` of every operation, on the payload held (R150). -/
theorem exec_validate {i : Instr} {s : State} {bs : Bytes} (hi : i.isRequest = true) (hp : s.phase = .validate)
    (hbs : s.payload = some bs) : exec i s = validateStep bs s := by
  rw [exec_request hi, operate_held (.inr (.inl hp)) hbs, respond_validate _ bs hp]

/-- `P_VALIDATE` with a code issued: the kind of the first check that fails, or the next phase (R151). -/
theorem validateStep_eq {s : State} {c : Byte} (bs : Bytes) (hc : s.issued = some c) :
    validateStep bs s = .next ((validateKind c bs).elim { s with phase := .extract } s.raise) := by
  simp only [validateStep, hc]
  cases validateKind c bs <;> rfl

/-- Settles O31: the kind the four checks decide, case by case. -/
theorem validateMakesFourChecksInOrder : Obligations.ValidateMakesFourChecksInOrder := by
  unfold Obligations.ValidateMakesFourChecksInOrder
  intro i s bs c hi hp hbs hc
  rw [exec_validate hi hp hbs, validateStep_eq bs hc, validateKind_eq]
  split_ifs <;> rfl

/-- A payload that passes has the issued code and a zero state at their indices (R150, R151). -/
theorem validated_code_state {c : Byte} {bs : Bytes} (h : validateKind c bs = none) :
    bs[1]? = some c ∧ bs[2]? = some 0x00 := by
  rw [validateKind_eq] at h
  split_ifs at h with _ hcode hstate _
  exact ⟨not_not.1 hcode, not_not.1 hstate⟩

/-- At least five bytes are four of a head, the data and a last byte (R83). -/
theorem exists_head_data_last {bs : Bytes} {n : Nat} (h : bs.length = n + 5) :
    ∃ (a c st l cc : Byte) (data : Bytes), data.length = n ∧ bs = [a, c, st, l] ++ data ++ [cc] := by
  match bs, h with
  | a :: c :: st :: l :: rest, h =>
    obtain rfl | ⟨data, cc, rfl⟩ := List.eq_nil_or_concat' rest
    · simp at h
    · exact ⟨a, c, st, l, cc, data, by simpa using h, rfl⟩

/-- Every payload that passes is a response of the issued code with at most 255 data bytes (R152, R154). -/
theorem responsePayload_of_validated {c : Byte} {bs : Bytes} (h : validateKind c bs = none) :
    ∃ (a cc : Byte) (data : Bytes), data.length ≤ 255 ∧ bs = responsePayload a c data cc := by
  obtain ⟨hcode, hstate⟩ := validated_code_state h
  obtain ⟨l, hl, hlen⟩ := validated_length h
  obtain ⟨a, c', st, l', cc, data, hdata, rfl⟩ := exists_head_data_last hlen
  obtain rfl : c' = c := Option.some.inj hcode
  obtain rfl : st = 0x00 := Option.some.inj hstate
  obtain rfl : l' = l := Option.some.inj hl
  refine ⟨a, cc, data, by have := l'.isLt; omega, ?_⟩
  rw [responsePayload, responseHead, ofNat_of_toNat_eq hdata, Config.stateOk]

/-- Settles O32: the payloads that pass are the response payloads of the issued code. -/
theorem validatorAcceptsExactly : Obligations.ValidatorAcceptsExactly := by
  unfold Obligations.ValidatorAcceptsExactly
  intro c bs
  constructor
  · exact responsePayload_of_validated
  · rintro ⟨a, cc, data, hfits, rfl⟩
    exact (validateKind_responsePayload c a c cc hfits).trans (if_pos rfl)

end Sys2Proof.Machine

namespace Sys2Proof

/-! ## The big-endian codecs (R160 to R163) -/

/-- A byte selected at bit `n`, as a quotient and a remainder; for `n = 8 * k` it is a base-256 digit (R160). -/
theorem toNat_extractLsb'_byte (v : Word) (n : Nat) : (v.extractLsb' n 8).toNat = v.toNat / 2 ^ n % 256 := by
  rw [BitVec.extractLsb'_toNat, Nat.shiftRight_eq_div_pow]

/-- `BE32Enc` gives the base-256 digits, the most significant first (R160). -/
theorem be32Enc_map_toNat (v : Word) :
    (be32Enc v).map BitVec.toNat =
      [v.toNat / 256 ^ 3 % 256, v.toNat / 256 ^ 2 % 256, v.toNat / 256 % 256, v.toNat % 256] := by
  simp only [be32Enc, List.map_cons, List.map_nil, toNat_extractLsb'_byte]
  norm_num

/-- Settles O10: base-256 digits, weighted sum, and the two round trips. -/
theorem bigEndianCodecsAreInverse : Obligations.BigEndianCodecsAreInverse := by
  unfold Obligations.BigEndianCodecsAreInverse
  exact ⟨be32Enc_map_toNat, Machine.be32Dec_toNat, fun v => ⟨_, _, _, _, rfl, be32Dec_be32Enc v⟩, be32Enc_be32Dec⟩

/-! ## The numbers of binary32 patterns (R166) -/

/-- The number of a normal pattern, by its three fields. -/
theorem f32Rat_of_normal {w : Word} {q : ℚ} (neg : Bool) (e frac : Nat) (hw : f32Value w = .normal neg e frac)
    (hq : (if neg then -1 else 1) * (2 : ℚ) ^ ((e : ℤ) - 127) * (1 + (frac : ℚ) / 2 ^ 23) = q) :
    f32Rat w = some q := by
  rw [f32Rat, hw, ← hq]

/-- The number of a subnormal pattern, by its sign and fraction. -/
theorem f32Rat_of_subnormal {w : Word} {q : ℚ} (neg : Bool) (frac : Nat) (hw : f32Value w = .subnormal neg frac)
    (hq : (if neg then -1 else 1) * (2 : ℚ) ^ (-126 : ℤ) * ((frac : ℚ) / 2 ^ 23) = q) :
    f32Rat w = some q := by
  rw [f32Rat, hw, ← hq]

/-- Settles O11, in the order of R169's table: each finite number is that of the sign, exponent and fraction
given with it; the zeros, infinities and NaNs are computed. -/
theorem binary32Examples : Obligations.Binary32Examples := by
  unfold Obligations.Binary32Examples
  exact ⟨
    ⟨by decide, f32Rat_of_normal false 127 0 (by decide) (by norm_num)⟩,
    by decide,
    by decide,
    ⟨by decide, f32Rat_of_normal true 127 0 (by decide) (by norm_num)⟩,
    ⟨by decide, f32Rat_of_normal false 128 (2 ^ 21) (by decide) (by norm_num)⟩,
    ⟨by decide, f32Rat_of_normal false 130 (2 ^ 21 + 2 ^ 18) (by decide) (by norm_num)⟩,
    ⟨by decide, f32Rat_of_normal false 133 (2 ^ 22 + 2 ^ 19) (by decide) (by norm_num)⟩,
    ⟨by decide, f32Rat_of_normal false 126 0 (by decide) (by norm_num)⟩,
    ⟨by decide, f32Rat_of_subnormal false 1 (by decide) (by norm_num)⟩,
    ⟨by decide, f32Rat_of_normal false 1 0 (by decide) (by norm_num)⟩,
    ⟨by decide, f32Rat_of_normal false 254 (2 ^ 23 - 1) (by decide) (by norm_num)⟩,
    by decide,
    by decide,
    by decide,
    by decide⟩

end Sys2Proof

namespace Sys2Proof.Machine

/-! ## Bytes held in a buffer (R50, R52) -/

/-- One of several bytes read together, read by itself. -/
theorem Memory.read_of_readBytes {m : Memory} {a n k : Nat} {bs : Bytes} (h : m.readBytes a n = some bs) (hk : k < n) :
    m.read (a + k) = bs[k]? := by
  induction n generalizing a bs k with
  | zero => cases hk
  | succ n ih =>
    obtain ⟨b, bs, rfl⟩ := List.exists_cons_of_length_eq_add_one (Memory.length_readBytes h)
    obtain ⟨hb, hbs⟩ := Memory.readBytes_eq_cons_iff.1 h
    cases k with
    | zero => exact hb
    | succ k =>
      have hindex : a + (k + 1) = a + 1 + k := by omega
      rw [hindex, ih hbs (Nat.lt_of_succ_lt_succ hk), List.getElem?_cons_succ]

/-- Bytes read together, read in two parts. -/
theorem Memory.readBytes_append {m : Memory} {a n : Nat} {bs cs : Bytes} (h : m.readBytes a n = some (bs ++ cs)) :
    m.readBytes a bs.length = some bs ∧ m.readBytes (a + bs.length) cs.length = some cs := by
  obtain rfl : _ = n := Memory.length_readBytes h
  induction bs generalizing a with
  | nil => exact ⟨rfl, h⟩
  | cons b bs ih =>
    obtain ⟨hb, hrest⟩ := Memory.readBytes_eq_cons_iff.1 h
    obtain ⟨hbs, hcs⟩ := ih hrest
    have hindex : a + (b :: bs).length = a + 1 + bs.length := by rw [List.length_cons]; omega
    exact ⟨Memory.readBytes_eq_cons_iff.2 ⟨hb, hbs⟩, hindex ▸ hcs⟩

/-- Words stored big-endian one after the other are loaded one by one (R52, R168). -/
theorem Memory.read32_of_readBytes_flatMap {m : Memory} {a n k : Nat} {vs : List Word}
    (h : m.readBytes a n = some (vs.flatMap be32Enc)) (hk : k < vs.length) : m.read32 (a + 4 * k) = vs[k]? := by
  induction vs generalizing a n k with
  | nil => cases hk
  | cons v vs ih =>
    obtain ⟨hv, hvs⟩ := Memory.readBytes_append h
    cases k with
    | zero => exact (Memory.read32_eq hv).trans (congrArg some (be32Dec_be32Enc v))
    | succ k =>
      have hindex : a + 4 * (k + 1) = a + 4 + 4 * k := by omega
      rw [hindex]
      exact ih hvs (Nat.lt_of_succ_lt_succ hk)

/-! ## `P_EXTRACT` of each operation (R181 to R188) -/

/-- The phase action of `P_EXTRACT` of every operation, on the payload held (R189). -/
theorem exec_extract_held {i : Instr} {s : State} {bs : Bytes} (hi : i.isRequest = true) (hp : s.phase = .extract)
    (hbs : s.payload = some bs) : exec i s = extractStep i.opOf bs s := by
  rw [exec_request hi, operate_held (.inr (.inr hp)) hbs, respond_extract _ bs hp]

/-- The data of a response payload held stand in `RXP` from index 4 on (R83). -/
theorem readBytes_data {s : State} {a c cc : Byte} {d : Bytes} (h : s.payload = some (responsePayload a c d cc)) :
    s.rxp.readBytes 4 d.length = some d := by
  have hhead : s.rxp.readBytes 0 (responseHead a c d).length = some (responseHead a c d) :=
    (Memory.readBytes_append h).1
  exact (Memory.readBytes_append hhead).2

/-- Settles O33: their `Extract` is the end with success. -/
theorem commandsSucceedOnAnyValidatedFrame : Obligations.CommandsSucceedOnAnyValidatedFrame := by
  unfold Obligations.CommandsSucceedOnAnyValidatedFrame
  refine ⟨fun p => ⟨rfl, rfl, rfl, rfl, rfl, rfl, rfl, rfl⟩, by decide, by decide, by decide, by decide, ?_⟩
  rintro i s bs (rfl | rfl | rfl | rfl) hp hbs <;> exact exec_extract_held rfl hp hbs

/-- No data are no measurement (R183). -/
theorem extractMeasurement_empty {bs : Bytes} (s : State) (h : bs.length = 5) :
    extractMeasurement bs s = .next (s.raise .emptyResult) := by
  rw [extractMeasurement, if_neg (by rw [h]; decide)]
  exact if_pos h

/-- Neither 40 data bytes nor none are no measurement either (R183). -/
theorem extractMeasurement_other {bs : Bytes} (s : State) (h45 : bs.length ≠ 45) (h5 : bs.length ≠ 5) :
    extractMeasurement bs s = .next (s.raise .invalidFrame) :=
  (if_neg h45).trans (if_neg h5)

/-- Settles O34: the ten words are the data bytes in groups of four. -/
theorem readMeasurementExtract : Obligations.ReadMeasurementExtract := by
  unfold Obligations.ReadMeasurementExtract
  refine ⟨fun p => ⟨rfl, rfl⟩, by decide, fun s bs c hp hbs hk => ?_⟩
  rw [exec_extract_held rfl hp hbs]
  refine ⟨fun h45 => ?_, extractMeasurement_empty s, extractMeasurement_other s⟩
  obtain ⟨a, cc, data, -, rfl⟩ := responsePayload_of_validated hk
  have hdata : data.length = 4 * 10 := by simpa using h45
  obtain ⟨hten, hgroups⟩ := f32Groups_spec 10 data hdata
  rw [← hgroups] at hbs ⊢
  refine ⟨f32Groups data, hten, fun k hk => ?_, extractMeasurement_row a c cc s hten⟩
  exact Memory.read32_of_readBytes_flatMap (readBytes_data hbs) (by rwa [hten])

/-- A `data-length` byte other than 4 is no interval (R184). -/
theorem extractInterval_other {bs : Bytes} {l : Byte} (s : State) (hl : rspLength bs = some l) (h : l ≠ 4) :
    extractInterval bs s = .next (s.raise .invalidResponse) := by
  simp only [extractInterval, hl, if_pos h]

/-- Settles O35: the interval is the four data bytes. -/
theorem readCleaningIntervalExtract : Obligations.ReadCleaningIntervalExtract := by
  unfold Obligations.ReadCleaningIntervalExtract
  refine ⟨fun p => ⟨rfl, rfl⟩, by decide, fun s bs c hp hbs hk => ?_⟩
  rw [exec_extract_held rfl hp hbs]
  obtain ⟨a, cc, data, hfits, rfl⟩ := responsePayload_of_validated hk
  refine ⟨fun h4 => ?_,
    fun h4 => extractInterval_other (bs := responsePayload a c data cc) s rfl fun hl => h4 (congrArg some hl)⟩
  have hlen : data.length = 4 := by
    rw [← toNat_ofNat_length hfits, Option.some.inj h4]
    rfl
  obtain ⟨b0, b1, b2, b3, rfl⟩ := List.length_eq_four.1 hlen
  refine ⟨be32Dec b0 b1 b2 b3, Memory.read32_eq (readBytes_data hbs), ?_⟩
  rw [← be32Enc_be32Dec]
  exact extractInterval_row a c cc _ s

/-- The answer to a write is its `data-length` byte being 0 (R185). -/
theorem extractWritten_eq {bs : Bytes} {l : Byte} (s : State) (hl : rspLength bs = some l) :
    extractWritten bs s = .next (if l = 0 then s.finish else s.raise .invalidResponse) := by
  simp only [extractWritten, hl, ne_eq, ite_not]
  split <;> rfl

/-- Settles O36: the `data-length` byte decides. -/
theorem writeCleaningIntervalExtract : Obligations.WriteCleaningIntervalExtract := by
  unfold Obligations.WriteCleaningIntervalExtract
  refine ⟨fun p v => ⟨rfl, rfl⟩, by decide, fun v s bs c hp hbs hk => ?_⟩
  obtain ⟨l, hl, -⟩ := validated_length hk
  have hbyte : bs[3]? = some l := hl
  have hexec := (exec_extract_held (i := .writeCleaningInterval v) rfl hp hbs).trans (extractWritten_eq s hl)
  rw [hexec, hbyte]
  constructor
  · intro h0
    rw [if_pos (Option.some.inj h0)]
    rfl
  · intro h0
    rw [if_neg fun hl => h0 (congrArg some hl)]

/-- The bytes of data followed by zeros, up to 32 (R187). -/
theorem getElem?_append_zeros {d : Bytes} {k : Nat} (hk : k < 32) :
    (d ++ List.replicate (32 - d.length) 0)[k]? = if k < d.length then d[k]? else some 0 := by
  split
  · exact List.getElem?_append_left ‹_›
  · rw [List.getElem?_append_right (by omega), List.getElem?_replicate, if_pos (by omega)]

/-- Settles O37: the buffer is the data bytes and zeros. -/
theorem deviceInfoExtract : Obligations.DeviceInfoExtract := by
  unfold Obligations.DeviceInfoExtract
  refine ⟨fun p x => ⟨rfl, rfl⟩, by decide, fun x s bs c hp hbs hk => ?_⟩
  rw [exec_extract_held rfl hp hbs]
  obtain ⟨a, cc, data, hfits, rfl⟩ := responsePayload_of_validated hk
  rw [responsePayload_length, Nat.add_sub_cancel]
  refine ⟨fun hlen => ?_, fun hlen => extractInfo_overlong a c cc s (by omega) hfits⟩
  refine ⟨data ++ List.replicate (32 - data.length) 0, ?_, fun k hk => ?_, extractInfo_row a c cc s (by omega)⟩
  · rw [List.length_append, List.length_replicate]
    omega
  · rw [getElem?_append_zeros hk]
    split
    · exact (Memory.read_of_readBytes (readBytes_data hbs) ‹_›).symm
    · rfl

end Sys2Proof.Machine

namespace Sys2Proof.Machine

/-! ## A whole operation (R180) -/

/-- The operation presented is `i`, its next phase action is that of `p`, and the host makes no move. -/
structure Running (i : Instr) (p : Phase) (s : State) : Prop where
  quiet : s.host = []
  presents : s.presented = some i
  phase : s.phase = p

section
variable {i : Instr} {s : State} {bs stream : Bytes}

theorem Running.isRequest {p : Phase} (h : Running i p s) : i.isRequest = true := (State.presented_spec h.presents).1

/-- The step of a running engine is the meaning of the operation presented. -/
theorem Running.step_eq {p : Phase} (h : Running i p s) (hp : p ≠ .idle) : step s = exec i s := by
  rw [step_operate h.quiet h.presents (h.phase ▸ hp), exec_request h.isRequest]

/-- The state after `P_BUILD` (R120). -/
def built (i : Instr) (s : State) : State :=
  { s with
    txp := s.txp.writeBytes 0 (encode s.params i)
    issued := some (codeOf s.params i.opOf)
    txpLen := (encode s.params i).length
    acc := sum8 (requestHead (codeOf s.params i.opOf) (requestData s.params i))
    phase := .encode }

/-- The state after a payload has been decoded (R138). -/
def decoded (bs : Bytes) (s : State) : State :=
  { s with rxp := Memory.writeBytes [] 0 bs, rxpLen := bs.length, phase := .check }

theorem Running.step_build (h : Running i .build s) (hwf : s.params.wf = true) : step s = .next (built i s) := by
  have hpay := encode_of_request h.isRequest s.params
  rw [h.step_eq nofun, exec_build h.isRequest h.phase, buildStep_eq (requestData_fits hwf i), built, hpay,
    requestPayload_length]

theorem Running.step_encode (h : Running i .encode s) (hbs : s.request = some bs)
    (hok : codecEncode s.params.codec bs = some stream) :
    step s = .next { s with stream := stream, phase := .send } := by
  rw [h.step_eq nofun, exec_encode h.isRequest h.phase]
  simp only [encodeStep, hbs, hok]

theorem Running.step_send (h : Running i .send s) (hok : s.txNext = .ok) :
    step s = .next { s with
      txIn := s.txIn.tail, writes := s.writes + 1, wire := s.wire ++ s.stream
      rxCnt := 0, delims := 0, phase := .recv } := by
  rw [h.step_eq nofun, exec_send h.isRequest h.phase]
  simp only [sendStep, State.afterWrite, accepted, hok]

theorem Running.step_decode (h : Running i .decode s) (hbs : s.captured = some bs) {r : Bytes}
    (hok : codecDecode s.params.codec bs = some r) : step s = .next (decoded r s) := by
  rw [h.step_eq nofun, exec_decode h.isRequest h.phase]
  simp only [decodeStep, hbs, hok, decoded]

theorem Running.step_check (h : Running i .check s) (hbs : s.payload = some bs) (hne : bs ≠ [])
    (hsum : byteSum bs % 256 = 255) : step s = .next { s with acc := sum8 bs.dropLast, phase := .validate } := by
  rw [h.step_eq nofun, exec_check h.isRequest h.phase hbs, checkStep_eq hne, if_pos hsum]

theorem Running.step_validate (h : Running i .validate s) (hbs : s.payload = some bs) {c : Byte}
    (hc : s.issued = some c) (hk : validateKind c bs = none) : step s = .next { s with phase := .extract } := by
  rw [h.step_eq nofun, exec_validate h.isRequest h.phase hbs, validateStep_eq bs hc, hk]
  rfl

theorem Running.step_extract (h : Running i .extract s) (hbs : s.payload = some bs) :
    step s = extractStep i.opOf bs s := by
  rw [h.step_eq nofun, exec_extract_held h.isRequest h.phase hbs]

/-- *Start* of the operation presented, with the move taken off the host's script (R23, R26). -/
theorem step_start {rest : List HostMove} (hh : s.host = .start :: rest) (hp : s.phase = .idle)
    (hb : s.status ≠ .busy) (hi : s.presented = some i) : step s = .next (State.start { s with host := rest }) := by
  have hpresent : { s with host := rest }.present i = { s with host := rest } := State.present_of_presented hi
  have hstart := exec_start (s := { s with host := rest }) (State.presented_spec hi).1 hp hb
  rw [step_start_presented hh hb hi, hstart, hpresent]

/-- Where an operation stands once its request has been accepted as `stream` (R123). -/
def requested (i : Instr) (stream : Bytes) (s : State) : State :=
  { built i s.start with
    stream := stream
    host := []
    txIn := s.txIn.tail
    writes := s.writes + 1
    wire := s.wire ++ stream
    phase := .recv }

/-- The request half: *start*, `P_BUILD`, `P_ENCODE` and `P_SEND`. -/
theorem run_request (hh : s.host = [.start]) (hp : s.phase = .idle) (hb : s.status ≠ .busy)
    (hi : s.presented = some i) (hwf : s.params.wf = true)
    (henc : codecEncode s.params.codec (encode s.params i) = some stream) (htx : s.txNext = .ok) :
    run 4 s = .next (requested i stream s) := by
  have hbuild : Running i .build (State.start { s with host := [] }) := ⟨rfl, hi, rfl⟩
  have hencode : Running i .encode (built i (State.start { s with host := [] })) := ⟨rfl, hi, rfl⟩
  have hreq : (built i (State.start { s with host := [] })).request = some (encode s.params i) :=
    request_of_writeBytes rfl rfl
  have hsend : Running i .send { built i (State.start { s with host := [] }) with stream := stream, phase := .send } :=
    ⟨rfl, hi, rfl⟩
  rw [run_next 3 (step_start hh hp hb hi), run_next 2 (hbuild.step_build hwf),
    run_next 1 (hencode.step_encode hreq henc)]
  exact run_next 0 (hsend.step_send htx)

/-- Where an operation stands once it has polled `answers` and the last of them was the second delimiter (R136). -/
def framed (answers : List RxAnswer) (s : State) : State := { received answers s with phase := .decode }

/-- A receive that opens with its script's first answers and ends with the second delimiter (R136). -/
theorem Receiving.run_complete {answers rest : List RxAnswer} (h : Receiving s) (hcnt0 : s.rxCnt = 0)
    (hdelims0 : s.delims = 0) (hrx : s.rxIn = answers ++ rest) (hfail : .fail ∉ answers)
    (hlast : answers.getLast? = some (.byte Config.delim)) (hcount : (rxBytes answers).count Config.delim = 2)
    (hlen : (rxBytes answers).length ≤ 600) :
    run answers.length s = .next (framed answers s) := by
  have hdelims : (received answers s).delims = 2 := by rw [received, hdelims0, hcount]
  obtain ⟨before, rfl⟩ := List.getLast?_eq_some_iff.1 hlast
  rw [rxBytes_append, List.count_append] at hcount
  rw [rxBytes_append, List.length_append] at hlen
  have hcount1 : (rxBytes before).count Config.delim = 1 := Nat.succ.inj hcount
  have hlen1 : (rxBytes before).length < Config.rxCap := hlen
  rw [h.run_last hrx (fun hm => hfail (List.mem_append_left _ hm)) (by omega) (by omega),
    byteCounted_second hdelims, framed]

/-- The end of an operation with the result of its response row `j` (R181 to R188). -/
def delivered (j : Instr) (s : State) : State :=
  match j with
  | .readMeasurementRsp _ values _ => { s.finish with f := some values }
  | .readCleaningIntervalRsp _ value _ => { s.finish with ci := some value }
  | .deviceInfoRsp _ data _ => { s.finish with
      info := some (data ++ List.replicate (32 - data.length) 0), infoLen := some data.length }
  | _ => s.finish

/-- `Extract_OP` on any response row of the operation ends it with that row's result. -/
theorem extractStep_row {j : Instr} (hj : j.isRequest = false) (hwf : j.wf = true) (p : Params) (s : State) :
    extractStep j.opOf (encode p j) s = .next (delivered j s) := by
  cases j with
  | readMeasurementRsp a values cc => exact extractMeasurement_row a _ cc s (of_decide_eq_true hwf)
  | readCleaningIntervalRsp a value cc => exact extractInterval_row a p.codeCi cc value s
  | deviceInfoRsp a data cc => exact extractInfo_row a _ cc s (of_decide_eq_true hwf)
  | writeCleaningIntervalRsp | startMeasurementRsp | stopMeasurementRsp | startFanCleaningRsp | resetRsp => rfl
  | _ => cases hj

/-- The end of an operation writes `STATUS`, `PHASE` and result registers only. -/
theorem delivered_eq (j : Instr) (s : State) : ∃ f ci info n,
    delivered j s = { s.finish with f := f, ci := ci, info := info, infoLen := n } := by
  cases j <;> exact ⟨_, _, _, _, rfl⟩

/-- From empty result registers, the result is the row's and nothing else. -/
theorem delivers_delivered (j : Instr) (hf : s.f = none) (hci : s.ci = none) (hinfo : s.info = none)
    (hlen : s.infoLen = none) : delivers j (delivered j s) := by
  cases j with
  | readMeasurementRsp => exact ⟨rfl, hci, hinfo, hlen⟩
  | readCleaningIntervalRsp => exact ⟨hf, rfl, hinfo, hlen⟩
  | deviceInfoRsp => exact ⟨hf, hci, rfl, rfl⟩
  | _ => exact ⟨hf, hci, hinfo, hlen⟩

/-- Where an operation stands once the payload `bs` has passed `P_CHECK` and `P_VALIDATE`. -/
def validated (bs : Bytes) (s : State) : State :=
  { decoded bs s with acc := sum8 bs.dropLast, phase := .extract }

/-- The response half: `P_DECODE` to `P_EXTRACT` on a frame of a right response row. -/
theorem run_response {j : Instr} (h : Running i .decode s) (hbs : s.captured = some bs)
    (hdec : codecDecode s.params.codec bs = some (encode s.params j))
    (hc : s.issued = some (codeOf s.params i.opOf)) (hj : j.isRequest = false) (hop : j.opOf = i.opOf)
    (hwf : j.wf = true) (hsum : byteSum (encode s.params j) % 256 = 255) :
    run 4 s = .next (delivered j (validated (encode s.params j) s)) := by
  have hcheck : Running i .check (decoded (encode s.params j) s) := ⟨h.quiet, h.presents, rfl⟩
  have hpay : (decoded (encode s.params j) s).payload = some (encode s.params j) := payload_of_writeBytes rfl rfl
  have hvalidate : Running i .validate
      { decoded (encode s.params j) s with acc := sum8 (encode s.params j).dropLast, phase := .validate } :=
    ⟨h.quiet, h.presents, rfl⟩
  have hextract : Running i .extract (validated (encode s.params j) s) := ⟨h.quiet, h.presents, rfl⟩
  have hkind : validateKind (codeOf s.params i.opOf) (encode s.params j) = none := by
    obtain ⟨a, data, cc, hfields⟩ := Instr.exists_hasFields hj
    rw [hfields.payload, hop, validateKind_responsePayload _ _ _ _ (hfields.fits hwf), if_pos rfl]
  rw [run_next 3 (h.step_decode hbs hdec),
    run_next 2 (hcheck.step_check hpay (encode_response_ne_nil hj _) hsum),
    run_next 1 (hvalidate.step_validate hpay hc hkind)]
  refine run_next 0 ((hextract.step_extract hpay).trans ?_)
  rw [← hop]
  exact extractStep_row hj hwf _ _

end

/-- Settles O58: *start*, the request half, the receive and the response half, one after the other. -/
theorem operationRunsToItsResult : Obligations.OperationRunsToItsResult := by
  unfold Obligations.OperationRunsToItsResult
  intro i j s stream answers rest txRest hwf hp hb hh hi henc htx hrx hfail hlast hcount hlen hdec hj hop hjwf
    ⟨hsum, _⟩
  have hrequest : run 4 s = .next (requested i stream s) :=
    run_request hh hp hb hi hwf henc (by rw [State.txNext, htx])
  have hrecv : Receiving (requested i stream s) := ⟨rfl, rfl, Option.isSome_of_eq_some hi, rfl⟩
  have hreceive := hrecv.run_complete rfl rfl hrx hfail hlast hcount hlen
  have hdecode : Running i .decode (framed answers (requested i stream s)) := ⟨rfl, hi, rfl⟩
  have hresponse := run_response hdecode (received_captured answers rfl) hdec rfl hj hop hjwf hsum
  have hrun : run (answers.length + 8) s =
      .next (delivered j (validated (encode s.params j) (framed answers (requested i stream s)))) := by
    rw [show answers.length + 8 = 4 + (answers.length + 4) by omega, run_add hrequest, run_add hreceive]
    exact hresponse
  refine ⟨_, hrun, ?_⟩
  have hresult := delivers_delivered j rfl rfl rfl rfl
    (s := validated (encode s.params j) (framed answers (requested i stream s)))
  obtain ⟨f, ci, info, n, hend⟩ := delivered_eq j _
  rw [hend] at hresult ⊢
  exact ⟨rfl, rfl, rfl, hresult, rfl, rfl, received_rxIn hrx, rfl, rfl⟩

end Sys2Proof.Machine

namespace Sys2Proof.Machine

/-! ## Which step raises which error kind (R200 to R208, R210) -/

/-- Settles O42: `raise` is this update. -/
theorem raiseDoesExactlyThis : Obligations.RaiseDoesExactlyThis := fun _ _ => rfl

/-- Settles O43: each code by evaluation, the bound kind by kind. -/
theorem errorCodes : Obligations.ErrorCodes := by
  unfold Obligations.ErrorCodes
  refine ⟨rfl, rfl, rfl, rfl, rfl, rfl, rfl, rfl, rfl, fun k => ?_⟩
  cases k <;> decide

/-- The table of R200: the kinds a step from `s` may raise, by the phase and, in `P_EXTRACT`, the operation. -/
inductive Raises (s : State) : ErrKind → Prop where
  | encoding (hp : s.phase = .encode) : Raises s .framingError
  | sending (hp : s.phase = .send) : Raises s .writeError
  | polling (hp : s.phase = .recv) : Raises s .readError
  | capping (hp : s.phase = .recv) : Raises s .invalidFrame
  | decoding (hp : s.phase = .decode) : Raises s .framingError
  | comparing (hp : s.phase = .check) : Raises s .checksumFailed
  | validating (hp : s.phase = .validate) : Raises s .invalidResponse
  | stateByte (hp : s.phase = .validate) : Raises s .statusError
  | partialMeasurement (hp : s.phase = .extract) (ho : s.op = some .readMeasurement) : Raises s .invalidFrame
  | noMeasurement (hp : s.phase = .extract) (ho : s.op = some .readMeasurement) : Raises s .emptyResult
  | overlongInfo (hp : s.phase = .extract) (ho : s.op = some .deviceInfo) : Raises s .emptyResult
  | notAnInterval (hp : s.phase = .extract) (ho : s.op = some .readCleaningInterval) : Raises s .invalidResponse
  | notAnAnswer (hp : s.phase = .extract) (ho : s.op = some .writeCleaningInterval) : Raises s .invalidResponse

/-- The step from `s` to `t` has taken an error, and of a kind that stands in the table. -/
inductive ErrorTaken (s t : State) : Prop where
  | intro (k : ErrKind) (u : State) (hraise : t = u.raise k) (hkind : Raises s k)

section
variable {s t : State} {bs : Bytes}

/-- A step that keeps `STATUS` while an operation runs has taken no error. -/
theorem not_err_of_busy {st : Status} (hb : s.status = .busy) (hkeep : st = s.status) : st ≠ .err := by
  simp [hkeep, hb]

theorem encodeStep_error (hb : s.status = .busy) (hp : s.phase = .encode) (ht : encodeStep s = .next t)
    (he : t.status = .err) : ErrorTaken s t := by
  obtain ⟨bs, -, ⟨-, rfl⟩ | ⟨stream, -, rfl⟩⟩ := encodeStep_next ht
  · exact ⟨_, s, rfl, .encoding hp⟩
  · exact absurd he (not_err_of_busy hb rfl)

theorem sendStep_error (hb : s.status = .busy) (hp : s.phase = .send) (ht : sendStep s = .next t)
    (he : t.status = .err) : ErrorTaken s t := by
  obtain ⟨n, -, rfl⟩ | ⟨-, rfl⟩ := sendStep_next ht
  · exact ⟨_, s.afterWrite s.stream, rfl, .sending hp⟩
  · exact absurd he (not_err_of_busy hb rfl)

theorem recvStep_error (hb : s.status = .busy) (hp : s.phase = .recv) (ht : recvStep s = .next t)
    (he : t.status = .err) : ErrorTaken s t := by
  obtain ⟨-, rfl⟩ | ⟨-, rfl⟩ | ⟨b, -, hbyte⟩ := recvStep_next ht
  · exact absurd he (not_err_of_busy hb rfl)
  · exact ⟨_, s.afterPoll, rfl, .polling hp⟩
  · obtain ⟨-, ⟨-, rfl⟩ | ⟨-, -, rfl⟩ | ⟨-, -, rfl⟩⟩ := recvByte_next hbyte
    · exact absurd he (not_err_of_busy hb rfl)
    · exact ⟨_, kept b s.afterPoll, rfl, .capping hp⟩
    · exact absurd he (not_err_of_busy hb rfl)

theorem decodeStep_error (hb : s.status = .busy) (hp : s.phase = .decode) (ht : decodeStep s = .next t)
    (he : t.status = .err) : ErrorTaken s t := by
  obtain ⟨bs, -, ⟨-, rfl⟩ | ⟨r, -, rfl⟩⟩ := decodeStep_next ht
  · exact ⟨_, s, rfl, .decoding hp⟩
  · exact absurd he (not_err_of_busy hb rfl)

theorem checkStep_error (hb : s.status = .busy) (hp : s.phase = .check) (ht : checkStep bs s = .next t)
    (he : t.status = .err) : ErrorTaken s t := by
  obtain ⟨-, rfl⟩ | ⟨-, rfl⟩ := checkStep_next ht
  · obtain ⟨a, ha⟩ := summed_eq bs s
    exact absurd he (not_err_of_busy hb (by rw [ha]))
  · exact ⟨_, summed bs s, rfl, .comparing hp⟩

/-- The validator names one of two kinds (R150). -/
theorem validateKind_kinds {c : Byte} {k : ErrKind} (h : validateKind c bs = some k) :
    k = .invalidResponse ∨ k = .statusError := by
  unfold validateKind at h
  split_ifs at h <;> cases h <;> simp

theorem validateStep_error (hb : s.status = .busy) (hp : s.phase = .validate) (ht : validateStep bs s = .next t)
    (he : t.status = .err) : ErrorTaken s t := by
  obtain ⟨c, -, ⟨k, hk, rfl⟩ | ⟨-, rfl⟩⟩ := validateStep_next ht
  · obtain rfl | rfl := validateKind_kinds hk
    · exact ⟨_, s, rfl, .validating hp⟩
    · exact ⟨_, s, rfl, .stateByte hp⟩
  · exact absurd he (not_err_of_busy hb rfl)

theorem extractStep_error {o : Op} (hp : s.phase = .extract) (ho : s.op = some o) (ht : extractStep o bs s = .next t)
    (he : t.status = .err) : ErrorTaken s t := by
  obtain ⟨rfl, ⟨-, data, -, rfl⟩ | ⟨-, rfl⟩ | ⟨-, -, rfl⟩⟩ | ⟨rfl, l, -, ⟨-, rfl⟩ | ⟨-, b0, b1, b2, b3, -, rfl⟩⟩ |
    ⟨rfl, l, -, ⟨-, rfl⟩ | ⟨-, rfl⟩⟩ | ⟨rfl, l, -, ⟨-, rfl⟩ | ⟨-, data, -, rfl⟩⟩ | ⟨-, rfl⟩ := extractStep_next ht
  · cases he
  · exact ⟨_, s, rfl, .noMeasurement hp ho⟩
  · exact ⟨_, s, rfl, .partialMeasurement hp ho⟩
  · exact ⟨_, s, rfl, .notAnInterval hp ho⟩
  · cases he
  · exact ⟨_, s, rfl, .notAnAnswer hp ho⟩
  · cases he
  · exact ⟨_, s, rfl, .overlongInfo hp ho⟩
  · cases he
  · cases he

/-- An engine step of a running operation that ends with an error has taken it by the table. -/
theorem engineStep_error (hb : s.status = .busy) (ht : engineStep s = .next t) (he : t.status = .err) :
    ErrorTaken s t := by
  obtain ⟨-, rfl⟩ | ⟨-, i, -, hx⟩ | ⟨hp, hx⟩ | ⟨hp, hx⟩ | ⟨hp, hx⟩ | ⟨hp, hx⟩ |
    ⟨o, bs, ho, -, ⟨hp, hx⟩ | ⟨hp, hx⟩ | ⟨hp, hx⟩⟩ := engineStep_phase ht
  · exact absurd he (not_err_of_busy hb rfl)
  · obtain ⟨-, rfl⟩ := buildStep_next hx
    exact absurd he (not_err_of_busy hb rfl)
  · exact encodeStep_error hb hp hx he
  · exact sendStep_error hb hp hx he
  · exact recvStep_error hb hp hx he
  · exact decodeStep_error hb hp hx he
  · exact checkStep_error hb hp hx he
  · exact validateStep_error hb hp hx he
  · exact extractStep_error hp ho hx he

end

/-- Settles O44: the error taken is `raise` of a kind in the table, and each row of the table is one of the cases. -/
theorem errorKindsByPhase : Obligations.ErrorKindsByPhase := by
  unfold Obligations.ErrorKindsByPhase
  intro s t ⟨hb, hquiet⟩ ht he
  rw [step_of_quiet hquiet] at ht
  obtain ⟨k, u, rfl, hkind⟩ := engineStep_error hb ht he
  refine ⟨rfl, rfl, rfl, rfl, rfl, ?_⟩
  cases hkind <;> simp [*]

end Sys2Proof.Machine

namespace Sys2Proof.Machine

/-! ## The verdict on a response (R190, R212) -/

/-- The operation's own check on the length `n` of a validated payload (R183 to R187). -/
def lengthKind (o : Op) (n : Nat) : ErrKind :=
  match o with
  | .readMeasurement => if n = 45 then .noError else if n = 5 then .emptyResult else .invalidFrame
  | .readCleaningInterval => if n = 9 then .noError else .invalidResponse
  | .writeCleaningInterval => if n = 5 then .noError else .invalidResponse
  | .deviceInfo => if n ≤ 37 then .noError else .emptyResult
  | .startMeasurement => .noError
  | .stopMeasurement => .noError
  | .startFanCleaning => .noError
  | .reset => .noError

/-- The verdict of `P_VALIDATE` and `P_EXTRACT`: the validator's, else that of the operation's own check. -/
def validatedKind (c : Byte) (o : Op) (bs : Bytes) : ErrKind := (validateKind c bs).getD (lengthKind o bs.length)

/-- The checks of `P_VALIDATE`, then the operation's own, in their order (R150, R190). -/
theorem validatedKind_eq (c : Byte) (o : Op) (bs : Bytes) :
    validatedKind c o bs =
      if bs.length < 5 then .invalidResponse
      else if bs[1]? ≠ some c then .invalidResponse
      else if bs[2]? ≠ some 0x00 then .statusError
      else if (bs[3]?).map BitVec.toNat ≠ some (bs.length - 5) then .invalidResponse
      else lengthKind o bs.length := by
  rw [validatedKind, validateKind_eq]
  split_ifs <;> rfl

/-- An operation has ended with `ERR = e`, and the host makes no move. -/
structure Ended (e : ErrKind) (t : State) : Prop where
  idle : t.phase = .idle
  quiet : t.host = []
  err : t.err = e
  status : t.status = if e = .noError then .ok else .err

theorem Ended.raise {u : State} {k e : ErrKind} (hh : u.host = []) (hk : k ≠ .noError) (he : e = k) :
    Ended e (u.raise k) := by
  subst he
  exact ⟨rfl, hh, rfl, (if_neg hk).symm⟩

theorem Ended.finish {u : State} {e : ErrKind} (hh : u.host = []) (hu : u.err = .noError) (he : e = .noError)
    (f : Option (List Word)) (ci : Option Word) (info : Option Bytes) (n : Option Nat) :
    Ended e { u.finish with f := f, ci := ci, info := info, infoLen := n } := by
  subst he
  exact ⟨rfl, hh, hu, rfl⟩

/-- A validated payload is five bytes longer than the `data-length` byte it holds says (R152). -/
theorem length_of_dataLength {bs : Bytes} {c l : Byte} (hk : validateKind c bs = none) (hl : rspLength bs = some l) :
    bs.length = l.toNat + 5 := by
  obtain ⟨m, hm, hlen⟩ := validated_length hk
  rwa [Option.some.inj (hl.symm.trans hm)]

/-- A check on the `data-length` byte of a validated payload is a check on its length (R184, R185). -/
theorem length_eq_iff_dataLength {bs : Bytes} {c l : Byte} (hk : validateKind c bs = none)
    (hl : rspLength bs = some l) (m : Byte) : bs.length = m.toNat + 5 ↔ l = m := by
  rw [length_of_dataLength hk hl, Nat.add_right_cancel_iff, BitVec.toNat_inj]

/-- `Extract_OP` on a validated payload ends the operation with the verdict of its own check. -/
theorem extractStep_ended {o : Op} {s t : State} {bs : Bytes} {c : Byte} (hh : s.host = []) (he : s.err = .noError)
    (hk : validateKind c bs = none) (ht : extractStep o bs s = .next t) : Ended (lengthKind o bs.length) t := by
  obtain ⟨rfl, ⟨h45, data, -, rfl⟩ | ⟨h5, rfl⟩ | ⟨h45, h5, rfl⟩⟩ |
    ⟨rfl, l, hl, ⟨h4, rfl⟩ | ⟨h4, b0, b1, b2, b3, -, rfl⟩⟩ | ⟨rfl, l, hl, ⟨h0, rfl⟩ | ⟨h0, rfl⟩⟩ |
    ⟨rfl, l, hl, ⟨h32, rfl⟩ | ⟨h32, data, -, rfl⟩⟩ | ⟨ho, rfl⟩ := extractStep_next ht
  · exact .finish hh he (if_pos h45) _ _ _ _
  · exact .raise hh nofun (by simp [lengthKind, h5])
  · exact .raise hh nofun ((if_neg h45).trans (if_neg h5))
  · exact .raise hh nofun (if_neg (mt (length_eq_iff_dataLength hk hl 4).1 h4))
  · exact .finish hh he (if_pos ((length_eq_iff_dataLength hk hl 4).2 h4)) _ _ _ _
  · exact .raise hh nofun (if_neg (mt (length_eq_iff_dataLength hk hl 0).1 h0))
  · exact .finish hh he (if_pos ((length_eq_iff_dataLength hk hl 0).2 h0)) _ _ _ _
  · have hlen := length_of_dataLength hk hl
    exact .raise hh nofun (if_neg (by omega))
  · have hlen := length_of_dataLength hk hl
    exact .finish hh he (if_pos (by omega)) _ _ _ _
  · obtain rfl | rfl | rfl | rfl := ho <;> exact .finish hh he rfl _ _ _ _

/-- An ended operation stays as it is while the host makes no move (R24). -/
theorem Ended.run_eq {e : ErrKind} {t : State} (h : Ended e t) (n : Nat) : run n t = .next t := by
  induction n with
  | zero => rfl
  | succ n ih => rw [run_next n ((step_of_quiet h.quiet).trans (engineStep_idle h.idle)), ih]

section
variable {i : Instr} {s : State} {bs : Bytes} {c : Byte}

/-- A step that ends the operation is the last to change anything. -/
theorem exists_ended_of_step {e : ErrKind} {t : State} (n : Nat) (hstep : step s = .next t) (h : Ended e t) :
    ∃ t, run (n + 1) s = .next t ∧ Ended e t :=
  ⟨t, (run_next n hstep).trans (h.run_eq n), h⟩

theorem Running.extract_ends (h : Running i .extract s) (he : s.err = .noError) (hbs : s.payload = some bs)
    (hk : validateKind c bs = none) : ∃ t, run 1 s = .next t ∧ Ended (lengthKind i.opOf bs.length) t := by
  obtain ⟨t, ht⟩ := extractStep_total i.opOf s hk
  exact exists_ended_of_step 0 ((h.step_extract hbs).trans ht) (extractStep_ended h.quiet he hk ht)

theorem Running.validate_ends (h : Running i .validate s) (he : s.err = .noError) (hbs : s.payload = some bs)
    (hc : s.issued = some c) : ∃ t, run 2 s = .next t ∧ Ended (validatedKind c i.opOf bs) t := by
  cases hk : validateKind c bs with
  | none =>
    have hextract : Running i .extract { s with phase := .extract } := ⟨h.quiet, h.presents, rfl⟩
    rw [run_next 1 (h.step_validate hbs hc hk), validatedKind, hk]
    exact hextract.extract_ends he hbs hk
  | some k =>
    have hstep : step s = .next (s.raise k) := by
      rw [h.step_eq nofun, exec_validate h.isRequest h.phase hbs, validateStep_eq bs hc, hk]
      rfl
    rw [validatedKind, hk]
    exact exists_ended_of_step 1 hstep (.raise h.quiet (validateKind_ne_noError hk) rfl)

theorem Running.check_ends (h : Running i .check s) (he : s.err = .noError) (hbs : s.payload = some bs)
    (hc : s.issued = some c) : ∃ t, run 3 s = .next t ∧
      Ended (if bs = [] ∨ byteSum bs % 256 ≠ 255 then .checksumFailed else validatedKind c i.opOf bs) t := by
  split
  case isFalse hgood =>
    obtain ⟨hne, hsum⟩ := not_or.1 hgood
    have hvalidate : Running i .validate { s with acc := sum8 bs.dropLast, phase := .validate } :=
      ⟨h.quiet, h.presents, rfl⟩
    rw [run_next 2 (h.step_check hbs hne (not_not.1 hsum))]
    exact hvalidate.validate_ends he hbs hc
  case isTrue hbad =>
    have hmatch : checksumMatches bs ≠ true := by
      by_cases hne : bs = []
      · simp [hne, checksumMatches]
      · rw [ne_eq, checksumMatches_iff hne]
        exact hbad.resolve_left hne
    have hstep : step s = .next ((summed bs s).raise .checksumFailed) := by
      rw [h.step_eq nofun, exec_check h.isRequest h.phase hbs, checkStep_summed, if_neg hmatch]
    obtain ⟨a, ha⟩ := summed_eq bs s
    have hquiet : (summed bs s).host = [] := by rw [ha]; exact h.quiet
    exact exists_ended_of_step 2 hstep (.raise hquiet nofun rfl)

end

/-- Settles O45: the three phases one after the other, each of which ends the operation or leaves it to the next. -/
theorem responseVerdictInPriorityOrder : Obligations.ResponseVerdictInPriorityOrder := by
  unfold Obligations.ResponseVerdictInPriorityOrder
  intro s i bs c h hquiet hp hi hbs hc
  have hrun : Running i .check s := ⟨hquiet, hi, hp⟩
  obtain ⟨herr, -⟩ := h.nothing (by simp [hp])
  obtain ⟨t, ht, hend⟩ := hrun.check_ends herr hbs hc
  refine ⟨t, ht, hend.idle, hend.quiet, hend.err.trans ?_, hend.err ▸ hend.status⟩
  rw [validatedKind_eq]
  rfl

/-! ## The reset input while a request is being sent (R211, R231) -/

/-- A reset in `P_SEND`: what the call under way has had accepted is on the wire, and the engine is idle. -/
theorem step_reset_send {s : State} {rest : List HostMove} (hh : s.host = .reset :: rest) (hp : s.phase = .send) :
    ∃ t, step s = .next t ∧ t.wire = s.wire ++ accepted s.txNext s.stream ∧
      t.phase = .idle ∧ t.status = .idle ∧ t.err = .noError ∧ t.txIn = s.txIn.tail ∧ t.polls = s.polls := by
  have hsend : { s with host := rest }.abandon = { s with host := rest }.afterWrite s.stream := State.abandon_send hp
  have hstep : step s = .next { s with host := rest }.engineReset := step_of_host hh
  refine ⟨_, hstep, ?_, rfl, rfl, rfl, ?_, rfl⟩
  · rw [State.engineReset_wire, hsend]
    rfl
  · rw [State.engineReset_txIn, hsend]
    rfl

/-- Settles O60: the answer to the call under way says how much has been accepted. -/
theorem resetInSendLeavesAnyPrefix : Obligations.ResetInSendLeavesAnyPrefix := by
  unfold Obligations.ResetInSendLeavesAnyPrefix
  intro s rest hh hp
  have hreset := step_reset_send hh hp
  refine ⟨fun k hfail => ?_, fun hok => ?_⟩
  · rwa [hfail] at hreset
  · rwa [hok] at hreset

end Sys2Proof.Machine

namespace Sys2Proof.Machine

/-! ## The state after reset and the reset input (R230, R231, R232) -/

/-- Settles O15: `State.reset` lists the values of R230's table, and an empty buffer reads NONE at every index. -/
theorem resetState : Obligations.ResetState := by
  unfold Obligations.ResetState
  have hnone : ∀ k, Memory.read [] k = none := Memory.read_nil
  exact ⟨rfl, rfl, rfl, rfl, rfl, rfl, rfl, rfl, rfl, rfl, rfl, rfl, rfl, rfl, rfl, rfl, hnone, hnone, hnone⟩

/-- Settles O46: the base case of the invariant. -/
theorem invariantHoldsAtReset : Obligations.InvariantHoldsAtReset := inv_reset

/-- Abandoning a phase touches the transmit side of the ports alone, and that only in `P_SEND` (R211). -/
theorem State.abandon_eq (s : State) : ∃ (answers : List TxAnswer) (n : Nat) (sent : Bytes),
    s.abandon = { s with txIn := answers, writes := n, wire := s.wire ++ sent } ∧
      (s.phase = .send → ∃ k, sent = s.stream.take k) ∧
      (s.phase ≠ .send → answers = s.txIn ∧ n = s.writes ∧ sent = []) := by
  by_cases hp : s.phase = .send
  case pos =>
    exact ⟨_, _, _, abandon_send hp, fun _ => accepted_take s.txNext s.stream, absurd hp⟩
  case neg =>
    refine ⟨s.txIn, s.writes, [], ?_, fun h => absurd h hp, fun _ => ⟨rfl, rfl, rfl⟩⟩
    rw [abandon_other hp, List.append_nil]

/-- Settles O16: the engine's reset keeps of the abandoned phase only what it left at the transmit port. -/
theorem engineResetAbandonsAnyPhase : Obligations.EngineResetAbandonsAnyPhase := by
  unfold Obligations.EngineResetAbandonsAnyPhase
  intro s rest hh
  obtain ⟨answers, n, sent, hleft, hsend, hother⟩ := State.abandon_eq { s with host := rest }
  have hstep : step s = .next { s with host := rest }.engineReset := step_of_host hh
  refine ⟨answers, n, sent, ?_, hsend, hother⟩
  rw [hstep, State.engineReset, hleft]

end Sys2Proof.Machine

namespace Sys2Proof.Machine

/-! ## The reference codec (93_implementation_defined.md G5) -/

/-- What stuffing makes of a byte: itself, or the escape byte and a second byte that stands for it. -/
theorem refStuff_cases (b : Byte) :
    (refStuff b = [b] ∧ b ≠ 0x7E ∧ b ≠ 0x7D) ∨
      ∃ c, refStuff b = [0x7D, c] ∧ refUnescape c = some b ∧ c ≠ 0x7E := by
  unfold refStuff
  split_ifs with h7E h7D h11 h13
  · exact .inr ⟨0x5E, rfl, h7E ▸ rfl, by decide⟩
  · exact .inr ⟨0x5D, rfl, h7D ▸ rfl, by decide⟩
  · exact .inr ⟨0x31, rfl, h11 ▸ rfl, by decide⟩
  · exact .inr ⟨0x33, rfl, h13 ▸ rfl, by decide⟩
  · exact .inl ⟨rfl, h7E, h7D⟩

theorem refUnstuff_plain {b : Byte} (hdelim : b ≠ 0x7E) (hescape : b ≠ 0x7D) (t : Bytes) :
    refUnstuff (b :: t) = (refUnstuff t).map (b :: ·) := by
  cases t with
  | nil => exact if_neg (not_or.mpr ⟨hdelim, hescape⟩)
  | cons c t => rw [refUnstuff, if_neg hdelim, if_neg hescape]

theorem refUnstuff_escaped {b c : Byte} (hc : refUnescape c = some b) (t : Bytes) :
    refUnstuff (0x7D :: c :: t) = (refUnstuff t).map (b :: ·) := by
  simp [refUnstuff, hc]

/-- Un-stuffing takes a stuffed byte off the front, whatever stands behind it. -/
theorem refUnstuff_refStuff_append (b : Byte) (t : Bytes) :
    refUnstuff (refStuff b ++ t) = (refUnstuff t).map (b :: ·) := by
  obtain ⟨hstuff, hdelim, hescape⟩ | ⟨c, hstuff, hc, -⟩ := refStuff_cases b
  · rw [hstuff]
    exact refUnstuff_plain hdelim hescape t
  · rw [hstuff]
    exact refUnstuff_escaped hc t

theorem refUnstuff_flatMap_refStuff (p : Bytes) : refUnstuff (p.flatMap refStuff) = some p := by
  induction p with
  | nil => rfl
  | cons b p ih => rw [List.flatMap_cons, refUnstuff_refStuff_append, ih, Option.map_some]

theorem delim_notMem_refStuff (b : Byte) : Config.delim ∉ refStuff b := by
  obtain ⟨hstuff, hb, -⟩ | ⟨c, hstuff, -, hc⟩ := refStuff_cases b
  · simpa [hstuff, Config.delim] using hb.symm
  · simpa [hstuff, Config.delim] using hc.symm

theorem count_delim_flatMap_refStuff (p : Bytes) : (p.flatMap refStuff).count Config.delim = 0 := by
  refine List.count_eq_zero_of_not_mem fun hmem => ?_
  obtain ⟨b, -, hb⟩ := List.mem_flatMap.mp hmem
  exact delim_notMem_refStuff b hb

/-- `RefDecode` of a delimited stream un-stuffs its interior. -/
theorem refDecode_delimited (t : Bytes) : refDecode ([0x7E] ++ t ++ [0x7E]) = refUnstuff t := by
  have hlast : ([0x7E] ++ t ++ [0x7E] : Bytes).getLast? = some 0x7E := List.getLast?_concat
  have hinner : (([0x7E] ++ t ++ [0x7E] : Bytes).drop 1).dropLast = t := List.dropLast_concat
  rw [refDecode, if_neg, hinner]
  rintro (hlen | hhead | hend)
  · simp at hlen
  · exact hhead rfl
  · exact hend hlast

/-- Settles O12: un-stuffing undoes the stuffing byte by byte, and no stuffed byte shows the delimiter. -/
theorem referenceCodecRoundTrip : Obligations.ReferenceCodecRoundTrip := by
  unfold Obligations.ReferenceCodecRoundTrip
  intro p
  constructor
  · exact (refDecode_delimited (p.flatMap refStuff)).trans (refUnstuff_flatMap_refStuff p)
  · calc (refEncode p).count Config.delim
        = 1 + (p.flatMap refStuff).count Config.delim + 1 := by
          rw [refEncode, List.count_append, List.count_append]; rfl
      _ = 2 := by rw [count_delim_flatMap_refStuff]

end Sys2Proof.Machine
